-- ==== Sys2Proof/Word.lean ====
section
/-! DEFINITION. The two widths of the block (00_scope.md R10): an unsigned byte and an unsigned 16-bit value. -/

namespace Sys2Proof

/-- A byte: 8 bits, unsigned (R10). -/
abbrev Byte := BitVec 8

/-- A 16-bit unsigned value: a CRC, a start address, a count, a payload word (R10). -/
abbrev Word := BitVec 16

end Sys2Proof
end

