-- ==== Sys2Proof/Machine/Operands.lean ====
section
/-! DEFINITION. The forms in which operands and results are read and written: the big-endian helpers and byte sequences
of 00_scope.md R12 and R13, and the word split's pairing of bytes (20_memory.md R41). -/

namespace Sys2Proof.Machine

/-- `hi(v) = v[15:8]` (R13). -/
def hi (v : Word) : Byte := v.extractLsb' 8 8

/-- `lo(v) = v[7:0]` (R13). -/
def lo (v : Word) : Byte := v.extractLsb' 0 8

/-- `be16(h, l) = (h << 8) | l` (R13). -/
def be16 (h l : Byte) : Word := (h.setWidth 16 <<< 8) ||| l.setWidth 16

/-- A 16-bit value as it stands on the wire: high byte first, at the lower index (R41). -/
def wireBytes (v : Word) : List Byte := [hi v, lo v]

/-- `s[i]` (R12). Every use is guarded by a length check; the 0 beyond the end is never read (log entry 14). -/
def byteAt (s : List Byte) (i : Nat) : Byte := s.getD i 0

/-- `s[a..b)` (R12): the bytes at indices a to b - 1. -/
def slice (s : List Byte) (a b : Nat) : List Byte := (s.drop a).take (b - a)

/-- Word k is `be16(payload[2k], payload[2k+1])` (R41, 41_frame.md R133). A single byte at the end makes no word; the
word split is asked only for an even number of bytes. -/
def splitWords : List Byte → List Word
  | h :: l :: rest => be16 h l :: splitWords rest
  | _ => []

end Sys2Proof.Machine
end

