-- ==== Sys2Proof/Syntax.lean ====
section
/-! DEFINITION. The commands of the block: one constructor per row of spec/opcode_table.json (30_encoding.md R71), with
the operands of that row. -/

namespace Sys2Proof

/-- A command of the block (R71). The comment of each constructor names the rule that gives its meaning. -/
inductive Instr where
  /-- `CRC_INIT` (R103). -/
  | crcInit
  /-- `CRC_UPDATE b` (R104). -/
  | crcUpdate (b : Byte)
  /-- `CRC_READ` (R105). -/
  | crcRead
  /-- `CRC_GEN {data}` (R106). -/
  | crcGen (data : List Byte)
  /-- `CRC_APPEND {data}` (R107). -/
  | crcAppend (data : List Byte)
  /-- `CRC_CHECK {data}` (R108). -/
  | crcCheck (data : List Byte)
  /-- `BUILD_REQUEST fc, start, count` (R130). -/
  | buildRequest (fc : Byte) (start count : Word)
  /-- `PARSE_RESPONSE {raw}` (R131). -/
  | parseResponse (raw : List Byte)
  /-- `EXTRACT_WORDS addr, fc, {payload}` (R133); `bc` is the length field of the command unit (R71). -/
  | extractWords (addr fc bc : Byte) (payload : List Byte)
  /-- `RA_RESET` (R160). -/
  | raReset
  /-- `RA_FEED {chunk}` (R161). -/
  | raFeed (chunk : List Byte)
  deriving DecidableEq, Repr

/-- The pseudo-command `CRC_STREAM {data}` (R77): `CRC_INIT`, then one `CRC_UPDATE` per byte in order. -/
def crcStream (data : List Byte) : List Instr :=
  .crcInit :: data.map .crcUpdate

end Sys2Proof
end

