-- ==== Sys2Proof/WellFormed.lean ====
section
/-! DEFINITION. Which commands are well formed (30_encoding.md R74). Every operand but one is bounded by its type; the one
relation between operands is that the payload of `EXTRACT_WORDS` has the length its `bc` field says (R74 (d)). -/

namespace Sys2Proof

/-- The check R74 (d) makes of a command's operands; the other malformed units are no `Instr` at all. -/
def Instr.wellFormed : Instr → Bool
  | .crcInit => true
  | .crcUpdate _ => true
  | .crcRead => true
  | .crcGen _ => true
  | .crcAppend _ => true
  | .crcCheck _ => true
  | .buildRequest _ _ _ => true
  | .parseResponse _ => true
  | .extractWords _ _ bc payload => payload.length == bc.toNat
  | .raReset => true
  | .raFeed _ => true

end Sys2Proof
end

