-- ==== Sys2Proof/Decode.lean ====
section
/-! DEFINITION. The command units of 30_encoding.md R70 to R75: the operation map, the decoder (total on any bytes,
refusing by name) and the encoder. -/

namespace Sys2Proof

open Sys2Proof.Machine

/-- The operations of R71, one per op byte. -/
inductive Op where
  | crcInit | crcUpdate | crcRead | crcGen | crcAppend | crcCheck
  | buildRequest | parseResponse | extractWords
  | raReset | raFeed
  deriving DecidableEq, Repr

/-- Why a unit is malformed (R74). -/
inductive Malformed where
  /-- R74 (a): there is no op byte (a unit with no bytes; 95_test_vectors.md V50). -/
  | noOp
  /-- R74 (a): the op byte is not in R71. -/
  | unassignedOp (b : Byte)
  /-- R74 (b): shorter than 1 + its fixed operands. -/
  | tooShort
  /-- R74 (c): a tail where R71 says "empty". -/
  | unexpectedTail
  /-- R74 (d): `EXTRACT_WORDS` whose payload is not `bc` bytes long. -/
  | payloadLength
  deriving DecidableEq, Repr

/-- The op byte of each operation (R71). -/
def Op.toByte : Op → Byte
  | .crcInit => 0x01
  | .crcUpdate => 0x02
  | .crcRead => 0x03
  | .crcGen => 0x04
  | .crcAppend => 0x05
  | .crcCheck => 0x06
  | .buildRequest => 0x10
  | .parseResponse => 0x11
  | .extractWords => 0x12
  | .raReset => 0x20
  | .raFeed => 0x21

/-- The operation an op byte selects; every other value is illegal (R71). -/
def Op.ofByte (b : Byte) : Option Op :=
  match b.toNat with
  | 0x01 => some .crcInit
  | 0x02 => some .crcUpdate
  | 0x03 => some .crcRead
  | 0x04 => some .crcGen
  | 0x05 => some .crcAppend
  | 0x06 => some .crcCheck
  | 0x10 => some .buildRequest
  | 0x11 => some .parseResponse
  | 0x12 => some .extractWords
  | 0x20 => some .raReset
  | 0x21 => some .raFeed
  | _ => none

/-- How many fixed operand bytes follow the op byte (R75). -/
def Op.fixedLen : Op → Nat
  | .crcUpdate => 1
  | .buildRequest => 5
  | .extractWords => 3
  | .crcInit | .crcRead | .crcGen | .crcAppend | .crcCheck | .parseResponse | .raReset | .raFeed => 0

/-- Whether the operation takes a tail (R71, the column "tail"). -/
def Op.takesTail : Op → Bool
  | .crcGen | .crcAppend | .crcCheck | .parseResponse | .extractWords | .raFeed => true
  | .crcInit | .crcUpdate | .crcRead | .buildRequest | .raReset => false

/-- The command an operation, its fixed operand bytes and its tail stand for (R70, R71). Multi-byte fields are big-endian.
The only check left at this point is R74 (d). -/
def assemble (op : Op) (fixed tail : List Byte) : Except Malformed Instr :=
  match op with
  | .crcInit => .ok .crcInit
  | .crcUpdate => .ok (.crcUpdate (byteAt fixed 0))
  | .crcRead => .ok .crcRead
  | .crcGen => .ok (.crcGen tail)
  | .crcAppend => .ok (.crcAppend tail)
  | .crcCheck => .ok (.crcCheck tail)
  | .buildRequest =>
    .ok (.buildRequest (byteAt fixed 0) (be16 (byteAt fixed 1) (byteAt fixed 2)) (be16 (byteAt fixed 3) (byteAt fixed 4)))
  | .parseResponse => .ok (.parseResponse tail)
  | .extractWords =>
    if tail.length ≠ (byteAt fixed 2).toNat then .error .payloadLength
    else .ok (.extractWords (byteAt fixed 0) (byteAt fixed 1) (byteAt fixed 2) tail)
  | .raReset => .ok .raReset
  | .raFeed => .ok (.raFeed tail)

/-- The command a whole unit of bytes stands for, or why it is malformed (R70, R74). -/
def decode (unit : List Byte) : Except Malformed Instr :=
  match unit with
  | [] => .error .noOp
  | b :: body =>
    match Op.ofByte b with
    | none => .error (.unassignedOp b)
    | some op =>
      if body.length < op.fixedLen then .error .tooShort
      else if op.takesTail = false ∧ op.fixedLen < body.length then .error .unexpectedTail
      else assemble op (body.take op.fixedLen) (body.drop op.fixedLen)

/-- The operation of a command. -/
def Instr.op : Instr → Op
  | .crcInit => .crcInit
  | .crcUpdate _ => .crcUpdate
  | .crcRead => .crcRead
  | .crcGen _ => .crcGen
  | .crcAppend _ => .crcAppend
  | .crcCheck _ => .crcCheck
  | .buildRequest _ _ _ => .buildRequest
  | .parseResponse _ => .parseResponse
  | .extractWords _ _ _ _ => .extractWords
  | .raReset => .raReset
  | .raFeed _ => .raFeed

/-- The fixed operand bytes of a command, 16-bit fields big-endian (R70, R71). -/
def Instr.fixedBytes : Instr → List Byte
  | .crcUpdate b => [b]
  | .buildRequest fc start count => [fc] ++ wireBytes start ++ wireBytes count
  | .extractWords addr fc bc _ => [addr, fc, bc]
  | .crcInit | .crcRead | .crcGen _ | .crcAppend _ | .crcCheck _ | .parseResponse _ | .raReset | .raFeed _ => []

/-- The tail of a command: its one variable operand (R70). -/
def Instr.tail : Instr → List Byte
  | .crcGen data | .crcAppend data | .crcCheck data => data
  | .parseResponse raw => raw
  | .extractWords _ _ _ payload => payload
  | .raFeed chunk => chunk
  | .crcInit | .crcUpdate _ | .crcRead | .buildRequest _ _ _ | .raReset => []

/-- `command = [op] ++ fixed_operands(op) ++ tail` (R70). -/
def encode (i : Instr) : List Byte :=
  i.op.toByte :: (i.fixedBytes ++ i.tail)

/-- The length R75 gives each command. -/
def Instr.unitLength : Instr → Nat
  | .crcInit | .crcRead | .raReset => 1
  | .crcUpdate _ => 2
  | .buildRequest _ _ _ => 6
  | .extractWords _ _ bc _ => 4 + bc.toNat
  | .crcGen tail | .crcAppend tail | .crcCheck tail | .parseResponse tail | .raFeed tail => 1 + tail.length

/-- The `n` bytes of a number, least significant first (the numbering of spec/opcode_table.json: bit 0 is the least
significant bit of the first byte). -/
def bytesOfNat : Nat → Nat → List Byte
  | 0, _ => []
  | n + 1, w => BitVec.ofNat 8 w :: bytesOfNat n (w / 256)

/-- A unit filled up with zero bytes to the length its op byte and, for `EXTRACT_WORDS`, its `bc` field give it (R75). A
unit that is long enough already, or whose op byte is illegal, stays as it is. -/
def padUnit (unit : List Byte) : List Byte :=
  match unit with
  | [] => []
  | b :: body =>
    match Op.ofByte b with
    | none => unit
    | some op =>
      let fixedEnd := 1 + op.fixedLen
      let want := match op with
        | .extractWords => fixedEnd + (byteAt body 2).toNat
        | _ => fixedEnd
      unit ++ List.replicate (want - unit.length) 0

/-- The command unit whose bits, numbered as the opcode table numbers them, are `w`: the bytes the table gives, and zeros
for the operand bytes above them. -/
def unitOfTableWord (nbits w : Nat) : List Byte :=
  padUnit (bytesOfNat (nbits / 8) w)

/-- What the decoder reads from an instruction whose bits are `w`. -/
def decodeTableWord (nbits w : Nat) : Option Instr :=
  match decode (unitOfTableWord nbits w) with
  | .ok i => some i
  | .error _ => none

end Sys2Proof
end

