-- ==== Sys2Proof/Config.lean ====
section
/-! DEFINITION. The values the block hardwires (00_scope.md R8, R9; 10_state.md R26), and the two open parameters of
its host (92_eei_decisions.md D29). Nothing here can be changed by a command. -/

namespace Sys2Proof.Config

/-- `DEV_ADDR` (R8): the address in every request and the only address a response may carry. -/
abbrev devAddr : Byte := 0x11

/-- `CRC_POLY` (R8): the polynomial constant of the bit-reflected update. -/
abbrev crcPoly : Word := 0xA001

/-- `CRC_INIT` (R8): the initial CRC value; also the reset value of the CRC register (R33). -/
abbrev crcInit : Word := 0xFFFF

/-- The holding-register function code (30_encoding.md R65). -/
abbrev fcHolding : Byte := 0x03

/-- `FC_TELEMETRY` (R8): the only function code the word split accepts. -/
abbrev fcTelemetry : Byte := 0x04

/-- `FC_SET` (R8): the function codes `build_request` accepts. -/
abbrev fcSet : List Byte := [fcHolding, fcTelemetry]

/-- `HDR_LEN` (R8): address, function and byte count. -/
abbrev hdrLen : Nat := 3

/-- `CRC_LEN` (R8). -/
abbrev crcLen : Nat := 2

/-- `MIN_FRAME` (R8): the shortest frame `parse_response` accepts. -/
abbrev minFrame : Nat := 5

/-- The length of a request (R8). -/
abbrev requestLen : Nat := 8

/-- `RBUF_CAP` (R9; 10_state.md R23): the capacity of the reassembly buffer. -/
abbrev rbufCap : Nat := 260

/-- `INITIAL_READ_RETRIES`, a natural of at least 1: the HOST's parameter, left OPEN by the spec (D29). No rule of the
block uses it. Log entry 12. -/
opaque initialReadRetries : { n : Nat // 1 ≤ n }

/-- `REQUEST_TIMEOUT`, a duration: the HOST's parameter, left OPEN by the spec (D29). No rule of the block uses it.
Log entry 12. -/
opaque requestTimeout : Nat

end Sys2Proof.Config
end

