-- ==== Sys2Proof/Machine/State.lean ====
section
/-! DEFINITION. The state of the block (10_state.md R20), with the interface through which commands arrive and responses
leave, all as plain data. -/

namespace Sys2Proof.Machine

/-- The statuses of 30_encoding.md R73. -/
inductive Status where
  | ok
  | invalidArgument
  | frameTooShort
  | crcMismatch
  | unexpectedDeviceAddress
  | unsupportedFunction
  | oddByteCount
  | incomplete
  | complete
  | overflow
  | illegalCommand
  deriving DecidableEq, Repr

/-- A parsed response frame, the source's ModbusResponseFrame (41_frame.md R135). -/
structure Frame where
  deviceAddress : Byte
  functionCode : Byte
  byteCount : Byte
  payload : List Byte
  crc : Word
  deriving DecidableEq, Repr

/-- The outputs of a response as typed values (R72). -/
inductive Outputs where
  /-- No outputs. -/
  | none
  /-- A 16-bit value: `CRC_READ`, `CRC_GEN`. -/
  | value (v : Word)
  /-- A byte sequence: `CRC_APPEND`, `BUILD_REQUEST`, a `Complete` frame. -/
  | bytes (bs : List Byte)
  /-- The verdict of `CRC_CHECK`. -/
  | verdict (valid : Bool)
  /-- The parsed frame of `PARSE_RESPONSE`. -/
  | frame (f : Frame)
  /-- The words of `EXTRACT_WORDS`. -/
  | words (ws : List Word)
  deriving DecidableEq, Repr

/-- A response: its status and its outputs (R72). -/
structure Response where
  status : Status
  outputs : Outputs
  deriving DecidableEq, Repr

/-- What the outside can do to the block between two commands: deliver a command unit (R70, R214), or reset the block
(70_reset_and_hazards.md R230). DESIGN CHOICE, safe: log entries 2 and 7. -/
inductive Event where
  | command (unit : List Byte)
  | blockReset
  deriving DecidableEq, Repr

/-- The state. `crc` and `rbuf` are the block's own (R20); `pending` and `responses` are the model's form of the
interface (R35 calls commands and responses transient). -/
structure State where
  /-- The register `CRC` (R21). -/
  crc : Word
  /-- `RBUF[0..RLEN)`: the live bytes of the reassembly buffer. `RLEN` is its length; the bytes beyond `RLEN` are left out,
  as R25 allows (log entry 1). -/
  rbuf : List Byte
  /-- What the outside has delivered and the block has not performed yet, oldest first (R28, R50; log entry 2). -/
  pending : List Event
  /-- The responses given so far, oldest first (R72, R217; log entry 4). -/
  responses : List Response
  deriving DecidableEq, Repr

/-- The block has no trap mechanism and no error stops it (60_exceptions.md R200), so no fault exists: nobody raises one.
Safe: every error is a status in a response (log entry 6). -/
inductive Fault
  deriving DecidableEq, Repr

/-- Why a command has no meaning in this model. -/
inductive Refusal where
  /-- Raised by an arm of `exec` for a command that has no meaning yet. No arm raises it: every command of R71 has its
  meaning. Safe. -/
  | notModelled (mnemonic : String)
  deriving DecidableEq, Repr

/-- The state right after block reset (R33, R230): `CRC` is 0xFFFF and `RLEN` is 0. Nothing has been delivered and nothing
answered (DESIGN CHOICE, log entries 2 and 4). -/
def State.reset : State where
  crc := Config.crcInit
  rbuf := []
  pending := []
  responses := []

end Sys2Proof.Machine
end

