-- ==== Sys2Proof/Machine/Flags.lean ====
section
/-! DEFINITION. The block has no flags (10_state.md R29): every command returns its own status. This file gives the
statuses their codes and kinds (30_encoding.md R73). -/

namespace Sys2Proof.Machine

/-- The column "kind" of R73. -/
inductive StatusKind where
  | success
  | error
  | reassemblyResult
  | interfaceError
  deriving DecidableEq, Repr

/-- The code of a status (R73). -/
def Status.code : Status → Byte
  | .ok => 0x00
  | .invalidArgument => 0x01
  | .frameTooShort => 0x02
  | .crcMismatch => 0x03
  | .unexpectedDeviceAddress => 0x04
  | .unsupportedFunction => 0x05
  | .oddByteCount => 0x06
  | .incomplete => 0x10
  | .complete => 0x11
  | .overflow => 0x12
  | .illegalCommand => 0x7F

/-- The kind of a status (R73). -/
def Status.kind : Status → StatusKind
  | .ok => .success
  | .invalidArgument | .frameTooShort | .crcMismatch | .unexpectedDeviceAddress | .unsupportedFunction | .oddByteCount => .error
  | .incomplete | .complete | .overflow => .reassemblyResult
  | .illegalCommand => .interfaceError

end Sys2Proof.Machine
end

