-- ==== Sys2Proof/Machine/Ops.lean ====
section
/-! DEFINITION. The named operations over the state, through which every meaning reads and writes it (00_scope.md R14,
R15), the ending of a command with a status, and the two sides of the interface. -/

namespace Sys2Proof.Machine

/-- `RLEN` (10_state.md R22): the number of live bytes. -/
def State.rlen (s : State) : Nat := s.rbuf.length

/-- `CRC <- v` (R14). -/
def State.setCrc (v : Word) (s : State) : State := { s with crc := v }

/-- `RBUF <- t` (R14), which also sets `RLEN` to the length of `t`. -/
def State.setRbuf (t : List Byte) (s : State) : State := { s with rbuf := t }

/-- `RLEN <- 0` (42_reassembler.md R160, R161). -/
def State.clearRbuf (s : State) : State := { s with rbuf := [] }

/-- The block hands the host one response (30_encoding.md R72). -/
def State.respond (r : Response) (s : State) : State := { s with responses := s.responses ++ [r] }

/-- `return OK(out)` (R15). -/
def returnOk (out : Outputs) (s : State) : Host.Outcome State Fault Refusal :=
  .next (s.respond ⟨.ok, out⟩)

/-- A reassembly result (R15, 60_exceptions.md R202): `Incomplete`, `Complete(frame)` or `Overflow`. -/
def returnResult (st : Status) (out : Outputs) (s : State) : Host.Outcome State Fault Refusal :=
  .next (s.respond ⟨st, out⟩)

/-- `raise e` (R15, R200): the command ends with the error status `e`, no outputs, and writes no state. This is the whole
of what an error does in this block: nothing is saved, no mode changes, no vector is taken. -/
def raise (e : Status) (s : State) : Host.Outcome State Fault Refusal :=
  .next (s.respond ⟨e, .none⟩)

/-- A malformed command (30_encoding.md R74): the answer is `IllegalCommand`, and no state is written. -/
def refuseCommand (s : State) : Host.Outcome State Fault Refusal :=
  raise .illegalCommand s

/-- The end of an operation that writes no state: its outputs, or the error it raised. -/
def settle (result : Except Status Outputs) (s : State) : Host.Outcome State Fault Refusal :=
  match result with
  | .ok out => returnOk out s
  | .error e => raise e s

/-- The next thing the outside has delivered, and the state in which it is performed (20_memory.md R50: one at a time,
in the order issued). -/
def State.fetch (s : State) : Option (Event × State) :=
  match s.pending with
  | [] => none
  | e :: rest => some (e, { s with pending := rest })

/-- Block reset (70_reset_and_hazards.md R230): the block's own state takes the values of R33. It answers nothing and takes
back nothing that was delivered or answered (DESIGN CHOICE, log entry 7). -/
def State.blockReset (s : State) : State := { s with crc := Config.crcInit, rbuf := [] }

/-- The host issues command units, after those already issued (60_exceptions.md R214). -/
def State.issue (units : List (List Byte)) (s : State) : State :=
  { s with pending := s.pending ++ units.map .command }

/-- What is observed at the end of a run (60_exceptions.md R217): the responses, and `CRC`, `RLEN`, `RBUF[0..RLEN)`. -/
def State.observation (s : State) : List Response × Word × Nat × List Byte :=
  (s.responses, s.crc, s.rlen, s.rbuf)

end Sys2Proof.Machine
end

