-- ==== Sys2Proof/Machine/Crc.lean ====
section
/-! DEFINITION. The CRC-16 generator and validator (40_crc.md): the per-byte update, the CRC of a sequence, and the six CRC
commands. -/

namespace Sys2Proof.Machine

/-- One turn of the loop of R100. -/
def crcShift (c : Word) : Word :=
  if c.getLsbD 0 then (c >>> 1) ^^^ Config.crcPoly else c >>> 1

/-- `n` turns of that loop. -/
def crcShifts : Nat → Word → Word
  | 0, c => c
  | n + 1, c => crcShifts n (crcShift c)

/-- `crc_update(c, b)` (R100): the byte enters the low 8 bits, then 8 turns. The loop itself is the spec's general
knowledge (G1), pinned by the source's vector (log entry 13). -/
def crcUpdate (c : Word) (b : Byte) : Word :=
  crcShifts 8 (c ^^^ b.setWidth 16)

/-- `crc16(s)` (R101): from 0xFFFF, every byte in order; no final XOR, no output reflection. -/
def crc16 (s : List Byte) : Word :=
  s.foldl crcUpdate Config.crcInit

/-- `append_crc` (R107): the sequence followed by its CRC, high byte first. -/
def appendCrc (s : List Byte) : List Byte :=
  s ++ wireBytes (crc16 s)

/-- `validate` (R108): the last two bytes are the CRC of the others. Fewer than 2 bytes are invalid (D14). -/
def crcValid (s : List Byte) : Bool :=
  if s.length < Config.crcLen then false
  else
    let n := s.length - Config.crcLen
    crc16 (slice s 0 n) == be16 (byteAt s n) (byteAt s (n + 1))

/-- `CRC_INIT` (R103). -/
def execCrcInit (s : State) : Host.Outcome State Fault Refusal :=
  returnOk .none (s.setCrc Config.crcInit)

/-- `CRC_UPDATE b` (R104). -/
def execCrcUpdate (b : Byte) (s : State) : Host.Outcome State Fault Refusal :=
  returnOk .none (s.setCrc (crcUpdate s.crc b))

/-- `CRC_READ` (R105). -/
def execCrcRead (s : State) : Host.Outcome State Fault Refusal :=
  returnOk (.value s.crc) s

/-- `CRC_GEN {data}` (R106): the CRC register is not used (D7). -/
def execCrcGen (data : List Byte) (s : State) : Host.Outcome State Fault Refusal :=
  returnOk (.value (crc16 data)) s

/-- `CRC_APPEND {data}` (R107). -/
def execCrcAppend (data : List Byte) (s : State) : Host.Outcome State Fault Refusal :=
  returnOk (.bytes (appendCrc data)) s

/-- `CRC_CHECK {data}` (R108): invalid is a verdict, not an error. -/
def execCrcCheck (data : List Byte) (s : State) : Host.Outcome State Fault Refusal :=
  returnOk (.verdict (crcValid data)) s

end Sys2Proof.Machine
end

