-- ==== Sys2Proof/Machine/Wire.lean ====
section
/-! DEFINITION. Responses as the bytes the host receives (30_encoding.md R72, R73), and the serialization of a frame
(41_frame.md R137). -/

namespace Sys2Proof.Machine

/-- `serialize(f)` (R137): the fields of the frame in wire order. -/
def Frame.serialize (f : Frame) : List Byte :=
  [f.deviceAddress, f.functionCode, f.byteCount] ++ f.payload ++ wireBytes f.crc

/-- The output bytes (R72). -/
def Outputs.toBytes : Outputs → List Byte
  | .none => []
  | .value v => wireBytes v
  | .bytes bs => bs
  | .verdict valid => [if valid then 1 else 0]
  | .frame f => f.serialize
  | .words ws => ws.flatMap wireBytes

/-- `response = [status] ++ outputs` (R72). -/
def Response.toBytes (r : Response) : List Byte :=
  r.status.code :: r.outputs.toBytes

end Sys2Proof.Machine
end

