-- ==== Sys2Proof/Machine/FrameCodec.lean ====
section
/-! DEFINITION. The frame codec (41_frame.md): the request builder, the response parser and the word split. None of them
reads or writes `CRC`, `RLEN` or `RBUF` (D7). -/

namespace Sys2Proof.Machine

/-- `build_request(function_code, start_address, count_or_value)` over naturals, with its range checks (R130, D16; log entry 9). -/
def buildRequest (fc start count : Nat) : Except Status (List Byte) :=
  if fc ∉ Config.fcSet.map BitVec.toNat then .error .invalidArgument
  else if 0xFFFF < start then .error .invalidArgument
  else if 0xFFFF < count then .error .invalidArgument
  else .ok (appendCrc ([Config.devAddr, BitVec.ofNat 8 fc]
    ++ wireBytes (BitVec.ofNat 16 start) ++ wireBytes (BitVec.ofNat 16 count)))

/-- `parse_response(raw_bytes)` (R131), the checks in the order of R132: minimum length, exact length, CRC, address. -/
def parseResponse (raw : List Byte) : Except Status Frame :=
  if raw.length < Config.minFrame then .error .frameTooShort
  else
    let addr := byteAt raw 0
    let fc := byteAt raw 1
    let bc := byteAt raw 2
    let n := Config.hdrLen + bc.toNat
    if raw.length ≠ n + Config.crcLen then .error .frameTooShort
    else
      let c := crc16 (slice raw 0 n)
      if c ≠ be16 (byteAt raw n) (byteAt raw (n + 1)) then .error .crcMismatch
      else if addr ≠ Config.devAddr then .error .unexpectedDeviceAddress
      else .ok ⟨addr, fc, bc, slice raw Config.hdrLen n, c⟩

/-- The word split (R133), the function check before the odd check (R134). The device address is carried and never
read (R134), so it is no argument. -/
def extractWords (fc bc : Byte) (payload : List Byte) : Except Status (List Word) :=
  if fc ≠ Config.fcTelemetry then .error .unsupportedFunction
  else if bc.toNat % 2 = 1 then .error .oddByteCount
  else .ok (splitWords payload)

/-- A frame is well formed (R135). -/
def Frame.wellFormed (f : Frame) : Bool :=
  f.payload.length == f.byteCount.toNat
    && f.deviceAddress == Config.devAddr
    && f.crc == crc16 ([f.deviceAddress, f.functionCode, f.byteCount] ++ f.payload)

/-- `BUILD_REQUEST fc, start, count` (R130). -/
def execBuildRequest (fc : Byte) (start count : Word) (s : State) : Host.Outcome State Fault Refusal :=
  settle ((buildRequest fc.toNat start.toNat count.toNat).map .bytes) s

/-- `PARSE_RESPONSE {raw}` (R131). -/
def execParseResponse (raw : List Byte) (s : State) : Host.Outcome State Fault Refusal :=
  settle ((parseResponse raw).map .frame) s

/-- `EXTRACT_WORDS addr, fc, {payload}` (R133). A payload that is not `bc` bytes long is R74 (d): the decoder gives no such
command, and a term of that shape answers as R74 says (log entry 5). -/
def execExtractWords (_addr fc bc : Byte) (payload : List Byte) (s : State) : Host.Outcome State Fault Refusal :=
  if payload.length ≠ bc.toNat then refuseCommand s
  else settle ((extractWords fc bc payload).map .words) s

end Sys2Proof.Machine
end

