-- ==== Sys2Proof/Machine/Reassembler.lean ====
section
/-! DEFINITION. The notification reassembler (42_reassembler.md): the expected length, the classification of the
accumulated bytes, and the two commands. -/

namespace Sys2Proof.Machine

/-- A `ReassemblyResult` (00_scope.md R17). -/
inductive ReassemblyResult where
  | incomplete
  | complete (frame : List Byte)
  | overflow
  deriving DecidableEq, Repr

/-- The expected length `3 + t[2] + 2` (R161, 30_encoding.md R63), defined once at least 3 bytes are held. -/
def expectedLen (t : List Byte) : Nat :=
  Config.hdrLen + (byteAt t 2).toNat + Config.crcLen

/-- The classification of the accumulated bytes (R161). -/
def classify (t : List Byte) : ReassemblyResult :=
  if t.length < Config.hdrLen then .incomplete
  else if t.length < expectedLen t then .incomplete
  else if t.length = expectedLen t then .complete t
  else .overflow

/-- `RA_RESET` (R160). -/
def execRaReset (s : State) : Host.Outcome State Fault Refusal :=
  returnOk .none s.clearRbuf

/-- `RA_FEED {chunk}` (R161): on `Incomplete` the accumulated bytes are kept, otherwise the buffer is cleared. -/
def execRaFeed (chunk : List Byte) (s : State) : Host.Outcome State Fault Refusal :=
  let t := s.rbuf ++ chunk
  match classify t with
  | .incomplete => returnResult .incomplete .none (s.setRbuf t)
  | .complete frame => returnResult .complete (.bytes frame) s.clearRbuf
  | .overflow => returnResult .overflow .none s.clearRbuf

end Sys2Proof.Machine
end

