-- ==== Sys2Proof/Machine/Dispatch.lean ====
section
/-! DEFINITION. One arm per command, each a direct call of its meaning. -/

namespace Sys2Proof.Machine

open Sys2Proof

def exec (i : Instr) (s : State) : Host.Outcome State Fault Refusal :=
  match i with
  -- the CRC engine (40_crc.md)
  | .crcInit => Sys2Proof.Machine.execCrcInit s
  | .crcUpdate b => Sys2Proof.Machine.execCrcUpdate b s
  | .crcRead => Sys2Proof.Machine.execCrcRead s
  | .crcGen data => Sys2Proof.Machine.execCrcGen data s
  | .crcAppend data => Sys2Proof.Machine.execCrcAppend data s
  | .crcCheck data => Sys2Proof.Machine.execCrcCheck data s
  -- the frame codec (41_frame.md)
  | .buildRequest fc start count => Sys2Proof.Machine.execBuildRequest fc start count s
  | .parseResponse raw => Sys2Proof.Machine.execParseResponse raw s
  | .extractWords addr fc bc payload => Sys2Proof.Machine.execExtractWords addr fc bc payload s
  -- the notification reassembler (42_reassembler.md)
  | .raReset => Sys2Proof.Machine.execRaReset s
  | .raFeed chunk => Sys2Proof.Machine.execRaFeed chunk s

end Sys2Proof.Machine
end

