-- ==== Sys2Proof/Machine/Step.lean ====
section
/-! DEFINITION. One step of the block: the next delivered event, performed as a whole (00_scope.md R5, 20_memory.md R46). -/

namespace Sys2Proof.Machine

open Sys2Proof

/-- One step. A well-formed command unit is performed; a malformed one is answered `IllegalCommand` (30_encoding.md R74); a
block reset resets the block (70_reset_and_hazards.md R230). With nothing delivered the block holds its state for as long as
the host waits (60_exceptions.md R213). -/
def step (s : State) : Host.Outcome State Fault Refusal :=
  match s.fetch with
  | none => .next s
  | some (.blockReset, s') => .next s'.blockReset
  | some (.command unit, s') =>
    match decode unit with
    | .ok i => exec i s'
    | .error _ => refuseCommand s'

/-- `s` with the command unit of a table word delivered next, before anything that was pending (log entry 3). -/
def State.withFetchWord (s : State) (nbits w : Nat) : State :=
  { s with pending := .command (unitOfTableWord nbits w) :: s.pending }

end Sys2Proof.Machine
end

