-- ==== Sys2Proof/Machine/Assembly.lean ====
section
/-! DEFINITION. The assembly notation of 30_encoding.md R76 and R77: printing a command as a line, and reading lines and
programs. It is notation only, with no semantic effect (D28). Texts are lists of characters, so that reading them is plain
recursion. What R76 leaves open of the notation is log entry 11. -/

namespace Sys2Proof.Machine

open Sys2Proof

/-- The brace that opens a byte sequence. -/
def openBrace : Char := Char.ofNat 0x7B

/-- The brace that closes a byte sequence. -/
def closeBrace : Char := Char.ofNat 0x7D

/-- The mnemonic of an operation (R71). -/
def mnemonicOf : Op → List Char
  | .crcInit => ['C', 'R', 'C', '_', 'I', 'N', 'I', 'T']
  | .crcUpdate => ['C', 'R', 'C', '_', 'U', 'P', 'D', 'A', 'T', 'E']
  | .crcRead => ['C', 'R', 'C', '_', 'R', 'E', 'A', 'D']
  | .crcGen => ['C', 'R', 'C', '_', 'G', 'E', 'N']
  | .crcAppend => ['C', 'R', 'C', '_', 'A', 'P', 'P', 'E', 'N', 'D']
  | .crcCheck => ['C', 'R', 'C', '_', 'C', 'H', 'E', 'C', 'K']
  | .buildRequest => ['B', 'U', 'I', 'L', 'D', '_', 'R', 'E', 'Q', 'U', 'E', 'S', 'T']
  | .parseResponse => ['P', 'A', 'R', 'S', 'E', '_', 'R', 'E', 'S', 'P', 'O', 'N', 'S', 'E']
  | .extractWords => ['E', 'X', 'T', 'R', 'A', 'C', 'T', '_', 'W', 'O', 'R', 'D', 'S']
  | .raReset => ['R', 'A', '_', 'R', 'E', 'S', 'E', 'T']
  | .raFeed => ['R', 'A', '_', 'F', 'E', 'E', 'D']

/-- The name of the one pseudo-command (R77). -/
def crcStreamName : List Char := ['C', 'R', 'C', '_', 'S', 'T', 'R', 'E', 'A', 'M']

/-- Every operation, in the order of R71. -/
def allOps : List Op :=
  [.crcInit, .crcUpdate, .crcRead, .crcGen, .crcAppend, .crcCheck,
   .buildRequest, .parseResponse, .extractWords, .raReset, .raFeed]

/-- A hexadecimal digit, capital letters for ten and more. -/
def hexDigit (n : Nat) : Char := if n < 10 then Char.ofNat (48 + n) else Char.ofNat (55 + n)

/-- The value of a hexadecimal digit, in capital or small letters. -/
def hexValue (c : Char) : Option Nat :=
  if 48 ≤ c.toNat ∧ c.toNat ≤ 57 then some (c.toNat - 48)
  else if 65 ≤ c.toNat ∧ c.toNat ≤ 70 then some (c.toNat - 55)
  else if 97 ≤ c.toNat ∧ c.toNat ≤ 102 then some (c.toNat - 87)
  else none

/-- The last `n` hexadecimal digits of a number. -/
def hexDigits : Nat → Nat → List Char
  | 0, _ => []
  | n + 1, v => hexDigits n (v / 16) ++ [hexDigit (v % 16)]

/-- A byte or 16-bit field as a hexadecimal number of `n` digits (R76). -/
def printNumber (n v : Nat) : List Char := '0' :: 'x' :: hexDigits n v

/-- A byte sequence: bytes in hexadecimal separated by spaces, inside braces (R76). -/
def printSequence (bs : List Byte) : List Char :=
  openBrace :: ((bs.map fun b => hexDigits 2 b.toNat).intersperse [' ']).flatten ++ [closeBrace]

/-- The operands of a command as R76 lists them; `bc` is not written, it is the length of the payload. -/
def printOperands : Instr → List (List Char)
  | .crcInit | .crcRead | .raReset => []
  | .crcUpdate b => [printNumber 2 b.toNat]
  | .crcGen data | .crcAppend data | .crcCheck data => [printSequence data]
  | .buildRequest fc start count => [printNumber 2 fc.toNat, printNumber 4 start.toNat, printNumber 4 count.toNat]
  | .parseResponse raw => [printSequence raw]
  | .extractWords addr fc _ payload => [printNumber 2 addr.toNat, printNumber 2 fc.toNat, printSequence payload]
  | .raFeed chunk => [printSequence chunk]

/-- A command as a line: its mnemonic, then its operands separated by commas (R76). -/
def printLine (i : Instr) : List Char :=
  match printOperands i with
  | [] => mnemonicOf i.op
  | operands => mnemonicOf i.op ++ ' ' :: (operands.intersperse [',', ' ']).flatten

/-- A blank between the parts of a line. -/
def isBlank (c : Char) : Bool := c == ' ' || c == '\t' || c == '\r'

/-- A text without the blanks at its ends. -/
def trim (text : List Char) : List Char :=
  ((text.dropWhile isBlank).reverse.dropWhile isBlank).reverse

/-- The pieces of a text between the separators that satisfy `p`; a text without one is one piece. -/
def cut (p : Char → Bool) : List Char → List (List Char)
  | [] => [[]]
  | c :: rest =>
    if p c then [] :: cut p rest
    else match cut p rest with
      | [] => [[c]]
      | piece :: pieces => (c :: piece) :: pieces

/-- The number a run of hexadecimal digits stands for, after the digits already read. -/
def readHex : Nat → List Char → Option Nat
  | acc, [] => some acc
  | acc, c :: rest =>
    match hexValue c with
    | none => none
    | some d => readHex (acc * 16 + d) rest

/-- A hexadecimal number below `bound` (R76). -/
def readNumber (bound : Nat) : List Char → Option Nat
  | '0' :: 'x' :: c :: digits => (readHex 0 (c :: digits)).filter (· < bound)
  | _ => none

/-- A byte operand. -/
def readByte (text : List Char) : Option Byte := (readNumber 256 text).map (BitVec.ofNat 8)

/-- A 16-bit operand. -/
def readWord (text : List Char) : Option Word := (readNumber 65536 text).map (BitVec.ofNat 16)

/-- The bytes of a sequence from its pieces, two digits each. -/
def readPairs : List (List Char) → Option (List Byte)
  | [] => some []
  | [a, b] :: rest =>
    match readHex 0 [a, b], readPairs rest with
    | some v, some bs => some (BitVec.ofNat 8 v :: bs)
    | _, _ => none
  | _ :: _ => none

/-- A byte sequence inside braces (R76). -/
def readSequence (text : List Char) : Option (List Byte) :=
  match text with
  | c :: rest =>
    if c = openBrace ∧ rest.getLast? = some closeBrace then
      readPairs ((cut isBlank rest.dropLast).filter (· ≠ []))
    else none
  | [] => none

/-- The command of an operation and its operand texts (R76). -/
def readOperands (op : Op) (operands : List (List Char)) : Option Instr :=
  match op, operands with
  | .crcInit, [] => some .crcInit
  | .crcUpdate, [b] => (readByte b).map .crcUpdate
  | .crcRead, [] => some .crcRead
  | .crcGen, [data] => (readSequence data).map .crcGen
  | .crcAppend, [data] => (readSequence data).map .crcAppend
  | .crcCheck, [data] => (readSequence data).map .crcCheck
  | .buildRequest, [fc, start, count] =>
    match readByte fc, readWord start, readWord count with
    | some fc, some start, some count => some (.buildRequest fc start count)
    | _, _, _ => none
  | .parseResponse, [raw] => (readSequence raw).map .parseResponse
  | .extractWords, [addr, fc, payload] =>
    match readByte addr, readByte fc, readSequence payload with
    | some addr, some fc, some payload =>
      if payload.length < 256 then some (.extractWords addr fc (BitVec.ofNat 8 payload.length) payload) else none
    | _, _, _ => none
  | .raReset, [] => some .raReset
  | .raFeed, [chunk] => (readSequence chunk).map .raFeed
  | _, _ => none

/-- The commands a line stands for: none for an empty or comment line (`;` begins a comment), several for `CRC_STREAM`
(R76, R77). -/
def readLine (line : List Char) : Option (List Instr) :=
  let text := trim (line.takeWhile (· ≠ ';'))
  let name := text.takeWhile fun c => !isBlank c
  let rest := trim (text.drop name.length)
  let operands := if rest = [] then [] else (cut (· == ',') rest).map trim
  if text = [] then some []
  else if name = crcStreamName then
    match operands with
    | [data] => (readSequence data).map crcStream
    | _ => none
  else
    match allOps.find? fun op => mnemonicOf op == name with
    | none => none
    | some op => (readOperands op operands).map fun i => [i]

/-- The commands of several lines, in order. -/
def readLines : List (List Char) → Option (List Instr)
  | [] => some []
  | line :: rest =>
    match readLine line, readLines rest with
    | some here, some later => some (here ++ later)
    | _, _ => none

/-- A program: one command per line, issued in order (R76, 10_state.md R28). -/
def readProgram (text : List Char) : Option (List Instr) :=
  readLines (cut (· == '\n') text)

end Sys2Proof.Machine
end

