-- ==== Sys2Proof/Machine/Instances.lean ====
section
/-! DEFINITION. Several blocks, one per device session, with independent and unshared state (10_state.md R34,
60_exceptions.md R211; log entry 8). -/

namespace Sys2Proof.Machine

/-- One step of the k-th of several blocks. The others have no part in it. A step of a block that is not there is no
step. -/
def stepInstance (k : Nat) (blocks : List State) : Host.Outcome (List State) Fault Refusal :=
  match blocks[k]? with
  | none => .next blocks
  | some s =>
    match step s with
    | .next t => .next (blocks.set k t)
    | .fault r => .fault r
    | .refused r => .refused r

end Sys2Proof.Machine
end

