-- ==== Sys2Proof/Machine/Session.lean ====
section
/-! DEFINITION. The host's side of the interface: what the source prescribes to the session that drives the block
(60_exceptions.md R205, R214 to R216; 70_reset_and_hazards.md R232, R233). The block neither checks nor depends on any of
it (R215). What the source leaves open of the host is log entry 17. -/

namespace Sys2Proof.Machine

open Sys2Proof

/-- The commands a request takes: `RA_RESET` with every `BUILD_REQUEST` (R214, R232). -/
def requestCommands (fc : Byte) (start count : Word) : List Instr :=
  [.raReset, .buildRequest fc start count]

/-- The initial read of all 85 registers (R215, R232). -/
def initialRead : List Instr := requestCommands Config.fcTelemetry 0x0000 0x0055

/-- The commands the host issues on a response: a `Complete` frame goes to `PARSE_RESPONSE`, a parsed frame to
`EXTRACT_WORDS` (R232), and a frame or decoder error is answered by `RA_RESET` (R205). Everything else waits for the next
delivery. -/
def hostReaction (r : Response) : List Instr :=
  match r.status, r.outputs with
  | .complete, .bytes frame => [.parseResponse frame]
  | .ok, .frame f => [.extractWords f.deviceAddress f.functionCode f.byteCount f.payload]
  | .frameTooShort, _ | .crcMismatch, _ | .unexpectedDeviceAddress, _ => [.raReset]
  | .unsupportedFunction, _ | .oddByteCount, _ => [.raReset]
  | _, _ => []

/-- What the host knows of `RLEN` after a command and its response, from what it knew before (R216). -/
def knownRlen (n : Nat) (i : Instr) (r : Response) : Nat :=
  match i, r.status with
  | .raReset, _ => 0
  | .raFeed chunk, .incomplete => n + chunk.length
  | .raFeed _, .complete | .raFeed _, .overflow => 0
  | _, _ => n

/-- What the host knows of `RLEN` from the list of commands it issued since block reset and their responses (R216). -/
def knownRlenAfter : Nat → List (Instr × Response) → Nat
  | n, [] => n
  | n, (i, r) :: history => knownRlenAfter (knownRlen n i r) history

end Sys2Proof.Machine
end

