-- ==== Sys2Proof/Safety.lean ====
section
/-! DEFINITION. What claims about the block use to say that a state or a run is as it should be: the buffer invariant,
which commands may write what, and the host's discipline. -/

namespace Sys2Proof.Machine

open Sys2Proof

/-- The buffer invariant (10_state.md R24): the buffer never rests holding a complete or over-long frame. -/
abbrev State.BufferAtRest (s : State) : Prop :=
  s.rlen < 3 ∨ s.rlen < 3 + (byteAt s.rbuf 2).toNat + 2

/-- The commands that may write `CRC` (10_state.md R20, R21). -/
def writesCrc : Instr → Bool
  | .crcInit | .crcUpdate _ => true
  | .crcRead | .crcGen _ | .crcAppend _ | .crcCheck _ | .buildRequest _ _ _ | .parseResponse _ | .extractWords _ _ _ _
  | .raReset | .raFeed _ => false

/-- The commands that may write `RLEN` or `RBUF` (10_state.md R20, R22). -/
def writesBuffer : Instr → Bool
  | .raReset | .raFeed _ => true
  | .crcInit | .crcUpdate _ | .crcRead | .crcGen _ | .crcAppend _ | .crcCheck _ | .buildRequest _ _ _ | .parseResponse _
  | .extractWords _ _ _ _ => false

/-- The host may issue a request in a state only if the reassembler holds no partial data (70_reset_and_hazards.md R233). -/
abbrev State.RequestAllowed (s : State) : Prop := s.rlen = 0

/-- A run of commands, oldest first, ending at the first fault or refusal (there is none) (10_state.md R28,
60_exceptions.md R217). -/
def runCommands : List Instr → State → Host.Outcome State Fault Refusal
  | [], s => .next s
  | i :: rest, s =>
    match exec i s with
    | .next t => runCommands rest t
    | .fault r => .fault r
    | .refused r => .refused r

/-- `s` with one more response and nothing else changed: what a command that writes no state leaves (00_scope.md R15). -/
abbrev State.answered (s : State) (r : Response) : State := { s with responses := s.responses ++ [r] }

/-- The statuses each command can be answered with (30_encoding.md R72, R73, 60_exceptions.md R201; for
`RA_FEED` 42_reassembler.md R161, log entry 18). -/
def allowedStatuses : Instr → List Status
  | .crcInit | .crcUpdate _ | .crcRead | .crcGen _ | .crcAppend _ | .crcCheck _ | .raReset => [.ok]
  | .buildRequest _ _ _ => [.ok, .invalidArgument]
  | .parseResponse _ => [.ok, .frameTooShort, .crcMismatch, .unexpectedDeviceAddress]
  | .extractWords _ _ _ _ => [.ok, .unsupportedFunction, .oddByteCount]
  | .raFeed _ => [.incomplete, .complete, .overflow]

end Sys2Proof.Machine
end

