-- ==== Sys2Proof/Certificates/Slice0/Obligations.lean ====
section
/-! DEFINITION. The statements for the provers, from the numbered rules of spec/. -/

open Sys2Proof Sys2Proof.Machine

/-! ## Reset and the outside -/

/-- R33, R230: the values after block reset. -/
def Obligations.ResetLeavesTheSpecsValues : Prop :=
  State.reset.crc = 0xFFFF ∧ State.reset.rlen = 0

/-- R230, as the event of log entry 7: a block reset sets `CRC` and empties the buffer, from any state. -/
def Obligations.BlockResetEventRestoresResetValues : Prop :=
  ∀ (s : State) (rest : List Event), s.pending = .blockReset :: rest →
    step s = .next { s with crc := 0xFFFF, rbuf := [], pending := rest }

/-- R213, in the model's form of the interface (log entry 2): with no command delivered the block holds its state. -/
def Obligations.IdleBlockHoldsItsState : Prop :=
  ∀ s : State, s.pending = [] → step s = .next s

/-! ## The CRC engine -/

/-- R100: the byte enters the low 8 bits, then 8 turns of shift right with XOR of 0xA001 when the bit shifted out is 1. -/
def Obligations.CrcUpdateRunsTheReflectedBitLoop : Prop :=
  (∀ (c : Word) (b : Byte), crcUpdate c b =
    (fun c : Word => if c.getLsbD 0 = true then (c >>> 1) ^^^ 0xA001 else c >>> 1)^[8] (c ^^^ b.setWidth 16)) ∧
  crcUpdate 0xFFFF 0x11 = 0x4C7F

/-- R101: from 0xFFFF, one `crc_update` per byte in order; the corner cases and the worked example of the rule. -/
def Obligations.Crc16FoldsBytesFromFFFF : Prop :=
  crc16 [] = 0xFFFF ∧
  (∀ (data : List Byte) (b : Byte), crc16 (data ++ [b]) = crcUpdate (crc16 data) b) ∧
  crc16 [0x00] = 0x40BF ∧ crc16 [0xFF] = 0x00FF ∧
  crc16 [0x31, 0x32, 0x33, 0x34, 0x35, 0x36, 0x37, 0x38, 0x39] = 0x4B37 ∧
  crc16 [0x11, 0x04, 0x00, 0x00, 0x00, 0x55] = 0xA532

/-- The byte-at-a-time form of R100: the update needs only the CRC of one byte from a zero register. -/
def Obligations.CrcUpdateSplitsIntoByteTable : Prop :=
  ∀ (c : Word) (b : Byte), crcUpdate c b = (c >>> 8) ^^^ crcUpdate 0 (lo c ^^^ b)

/-- R103. Everything but `CRC` and the response list is unchanged. -/
def Obligations.CrcInitSetsFFFF : Prop :=
  encode .crcInit = [0x01] ∧ ∀ s : State, exec .crcInit s = .next { s with crc := 0xFFFF, responses := s.responses ++ [⟨.ok, .none⟩] }

/-- R104, with its corner case. Everything but `CRC` and the response list is unchanged. -/
def Obligations.CrcUpdateFoldsOneByte : Prop :=
  (∀ b : Byte, encode (.crcUpdate b) = [0x02, b]) ∧
  (∀ (s : State) (b : Byte), exec (.crcUpdate b) s =
    .next { s with crc := crcUpdate s.crc b, responses := s.responses ++ [⟨.ok, .none⟩] }) ∧
  crcUpdate 0x0000 0x00 = 0x0000 ∧ crcUpdate 0xFFFF 0x11 = 0x4C7F

/-- R105: the register, high byte first; no state written. -/
def Obligations.CrcReadAnswersTheRegister : Prop :=
  encode .crcRead = [0x03] ∧ ∀ s : State, ∃ r : Response, exec .crcRead s = .next (s.answered r) ∧ r.toBytes = [0x00, hi s.crc, lo s.crc]

/-- R106: the CRC of the operand, high byte first; no state written, `CRC` not used. -/
def Obligations.CrcGenAnswersTheCrcOfItsOperand : Prop :=
  ∀ (s : State) (data : List Byte), encode (.crcGen data) = 0x04 :: data ∧ ∃ r : Response,
    exec (.crcGen data) s = .next (s.answered r) ∧ r.toBytes = [0x00, hi (crc16 data), lo (crc16 data)]

/-- R107: the operand followed by its CRC, high byte first, two bytes longer; no state written. -/
def Obligations.CrcAppendAddsTheCrcHighByteFirst : Prop :=
  ∀ (s : State) (data : List Byte), encode (.crcAppend data) = 0x05 :: data ∧ ∃ out : List Byte,
    exec (.crcAppend data) s = .next (s.answered ⟨.ok, .bytes out⟩) ∧
    out = data ++ [hi (crc16 data), lo (crc16 data)] ∧ out.length = data.length + 2

/-- R108: fewer than 2 bytes are invalid; otherwise the CRC of all but the last two bytes is compared with those two, high
byte first. No state written; `OK` in every case. -/
def Obligations.CrcCheckComparesTheTrailingValue : Prop :=
  ∀ s : State,
    (∀ data : List Byte, encode (.crcCheck data) = 0x06 :: data) ∧
    (∀ data : List Byte, data.length < 2 → exec (.crcCheck data) s = .next (s.answered ⟨.ok, .verdict false⟩)) ∧
    (∀ (data : List Byte) (h l : Byte), exec (.crcCheck (data ++ [h, l])) s =
      .next (s.answered ⟨.ok, .verdict (decide (crc16 data = be16 h l))⟩)) ∧
    Response.toBytes ⟨.ok, .verdict true⟩ = [0x00, 1] ∧ Response.toBytes ⟨.ok, .verdict false⟩ = [0x00, 0]

/-- R109: what `CRC_APPEND` answers, `CRC_CHECK` finds valid, in whatever state it is asked. -/
def Obligations.AppendThenCheckIsValid : Prop :=
  ∀ (s u : State) (data : List Byte), ∃ out : List Byte,
    exec (.crcAppend data) s = .next (s.answered ⟨.ok, .bytes out⟩) ∧
    exec (.crcCheck out) u = .next (u.answered ⟨.ok, .verdict true⟩)

/-- R102, R77: `CRC_STREAM`, `CRC_INIT` and one `CRC_UPDATE` per byte, leaves `CRC = crc16(data)` from any state, and a CRC
goes on across chunk boundaries. -/
def Obligations.StreamingLeavesCrc16 : Prop :=
  (∀ data : List Byte, crcStream data = .crcInit :: data.map .crcUpdate) ∧
  (∀ (s : State) (data : List Byte), runCommands (crcStream data) s =
    .next { s with crc := crc16 data, responses := s.responses ++ List.replicate (data.length + 1) ⟨.ok, .none⟩ }) ∧
  (∀ data more : List Byte, crc16 (data ++ more) = more.foldl crcUpdate (crc16 data))

/-- R110: three sequences followed by their own CRCs, high byte first, have three different CRCs: no residue is fixed. -/
def Obligations.WholeFrameCrcDependsOnTheFrame : Prop :=
  (appendCrc [] = [0xFF, 0xFF] ∧ crc16 (appendCrc []) = 0x0000) ∧
  (appendCrc [0x11] = [0x11, 0x4C, 0x7F] ∧ crc16 (appendCrc [0x11]) = 0xE554) ∧
  (appendCrc [0x11, 0x04, 0x00, 0x00, 0x00, 0x55] = [0x11, 0x04, 0x00, 0x00, 0x00, 0x55, 0xA5, 0x32] ∧
    crc16 (appendCrc [0x11, 0x04, 0x00, 0x00, 0x00, 0x55]) = 0x9E2F)

/-- R111 (its clause about `CRC_CHECK`), and V23: changing any one byte of a sequence with its CRC appended, the CRC bytes
included, makes `CRC_CHECK` answer invalid. -/
def Obligations.SingleByteChangeFailsCrcCheck : Prop :=
  ∀ (s : State) (data : List Byte) (i : Nat) (b : Byte), i < (appendCrc data).length → b ≠ byteAt (appendCrc data) i →
    exec (.crcCheck ((appendCrc data).set i b)) s = .next (s.answered ⟨.ok, .verdict false⟩)

/-- R111 with R131 and V23: changing any one byte of a serialized well-formed frame makes `PARSE_RESPONSE` raise:
`FrameTooShort` where the changed byte is the byte count, `CrcMismatch` everywhere else (log entry 15). -/
def Obligations.SingleByteChangeFailsParse : Prop :=
  ∀ (s : State) (f : Frame) (i : Nat) (b : Byte), f.wellFormed = true → i < f.serialize.length → b ≠ byteAt f.serialize i →
    exec (.parseResponse (f.serialize.set i b)) s =
      .next (s.answered ⟨if i = 2 then .frameTooShort else .crcMismatch, .none⟩)

/-! ## The frame codec -/

/-- R130: the 8 bytes of a request, or `InvalidArgument`, at the command interface and for operands as naturals. -/
def Obligations.BuildRequestMakesTheFrameOrRefuses : Prop :=
  (∀ (s : State) (fc : Byte) (start count : Word),
    encode (.buildRequest fc start count) = [0x10, fc, hi start, lo start, hi count, lo count] ∧
    ((fc = 0x03 ∨ fc = 0x04) → ∃ h : List Byte, h = [0x11, fc, hi start, lo start, hi count, lo count] ∧
      exec (.buildRequest fc start count) s = .next (s.answered ⟨.ok, .bytes (h ++ [hi (crc16 h), lo (crc16 h)])⟩) ∧
      buildRequest fc.toNat start.toNat count.toNat = .ok (h ++ [hi (crc16 h), lo (crc16 h)])) ∧
    (fc ≠ 0x03 ∧ fc ≠ 0x04 → exec (.buildRequest fc start count) s = .next (s.answered ⟨.invalidArgument, .none⟩))) ∧
  (∀ fc start count : Nat, (fc ≠ 3 ∧ fc ≠ 4) ∨ start > 0xFFFF ∨ count > 0xFFFF →
    buildRequest fc start count = .error .invalidArgument)

/-- R141: every request is 8 bytes, begins 0x11, passes `CRC_CHECK`, carries `start` and `count` in bytes 2 to 5, and is no
response frame: `PARSE_RESPONSE` raises `FrameTooShort` unless byte 2 happens to be 3. -/
def Obligations.RequestsAreValidAndDecodeBack : Prop :=
  ∀ (s u : State) (fc : Byte) (start count : Word), fc = 0x03 ∨ fc = 0x04 → ∃ out : List Byte,
    exec (.buildRequest fc start count) s = .next (s.answered ⟨.ok, .bytes out⟩) ∧
    out.length = 8 ∧ byteAt out 0 = 0x11 ∧
    exec (.crcCheck out) u = .next (u.answered ⟨.ok, .verdict true⟩) ∧
    be16 (byteAt out 2) (byteAt out 3) = start ∧ be16 (byteAt out 4) (byteAt out 5) = count ∧
    (hi start ≠ 3 → exec (.parseResponse out) u = .next (u.answered ⟨.frameTooShort, .none⟩))

/-- R131: the four checks in order, and the parsed frame. Every byte sequence falls under exactly one of the three clauses
on its length, and a sequence of the right length is `addr, fc, bc`, a payload of `bc` bytes and two CRC bytes. -/
def Obligations.ParseResponseChecksInOrder : Prop :=
  ∀ s : State,
    (∀ raw : List Byte, encode (.parseResponse raw) = 0x11 :: raw) ∧
    (∀ raw : List Byte, raw.length < 5 → exec (.parseResponse raw) s = .next (s.answered ⟨.frameTooShort, .none⟩)) ∧
    (∀ raw : List Byte, 5 ≤ raw.length → raw.length ≠ 3 + (byteAt raw 2).toNat + 2 →
      exec (.parseResponse raw) s = .next (s.answered ⟨.frameTooShort, .none⟩)) ∧
    (∀ (addr fc bc : Byte) (payload : List Byte) (h l : Byte), payload.length = bc.toNat →
      exec (.parseResponse ([addr, fc, bc] ++ payload ++ [h, l])) s = .next (s.answered
        (if crc16 ([addr, fc, bc] ++ payload) ≠ be16 h l then ⟨.crcMismatch, .none⟩
         else if addr ≠ 0x11 then ⟨.unexpectedDeviceAddress, .none⟩
         else ⟨.ok, .frame ⟨addr, fc, bc, payload, be16 h l⟩⟩)))

/-- R132: the corner cases of the parser, one clause per line of the rule. -/
def Obligations.ParseResponseCornerCases : Prop :=
  (∀ raw : List Byte, raw.length ≤ 4 → parseResponse raw = .error .frameTooShort) ∧
  (∀ raw : List Byte, raw.length > 3 + (byteAt raw 2).toNat + 2 → parseResponse raw = .error .frameTooShort) ∧
  (∀ (addr fc bc : Byte) (payload : List Byte) (h l : Byte), payload.length = bc.toNat → addr ≠ 0x11 →
    parseResponse ([addr, fc, bc] ++ payload ++ [h, l]) =
      .error (if crc16 ([addr, fc, bc] ++ payload) = be16 h l then .unexpectedDeviceAddress else .crcMismatch)) ∧
  (∀ (addr fc bc : Byte) (payload : List Byte) (c : Word), payload.length = bc.toNat →
    c = crc16 ([addr, fc, bc] ++ payload) → hi c ≠ lo c →
    parseResponse ([addr, fc, bc] ++ payload ++ [lo c, hi c]) = .error .crcMismatch) ∧
  (∀ (fc : Byte) (c : Word), c = crc16 [0x11, fc, 0x00] →
    parseResponse [0x11, fc, 0x00, hi c, lo c] = .ok ⟨0x11, fc, 0x00, [], c⟩) ∧
  [0x11, 0x04, 0x00, hi (crc16 [0x11, 0x04, 0x00]), lo (crc16 [0x11, 0x04, 0x00])] = [0x11, 0x04, 0x00, 0x05, 0x23] ∧
  (∀ (fc bc : Byte) (payload : List Byte) (c : Word), payload.length = bc.toNat → c = crc16 ([0x11, fc, bc] ++ payload) →
    parseResponse ([0x11, fc, bc] ++ payload ++ [hi c, lo c]) = .ok ⟨0x11, fc, bc, payload, c⟩)

/-- R139: whenever `PARSE_RESPONSE` answers `OK`, its output bytes are the input, byte for byte. -/
def Obligations.ParseOkOutputsEqualTheInput : Prop :=
  ∀ (s t : State) (raw : List Byte) (r : Response), exec (.parseResponse raw) s = .next t → t.responses = s.responses ++ [r] →
    r.status = .ok → r.outputs.toBytes = raw

/-- R135: every frame `PARSE_RESPONSE` answers is well formed, in the three parts of the rule. -/
def Obligations.ParsedFramesAreWellFormed : Prop :=
  ∀ (s t : State) (raw : List Byte) (f : Frame), exec (.parseResponse raw) s = .next t →
    t.responses = s.responses ++ [⟨.ok, .frame f⟩] →
    f.payload.length = f.byteCount.toNat ∧ f.payload.length ≤ 255 ∧ f.deviceAddress = 0x11 ∧
    f.crc = crc16 ([f.deviceAddress, f.functionCode, f.byteCount] ++ f.payload)

/-- R138: parsing undoes serializing for every well-formed frame, and raises one of the three errors for every other. -/
def Obligations.ParseUndoesSerialize : Prop :=
  (∀ (s : State) (f : Frame), f.wellFormed = true →
    exec (.parseResponse f.serialize) s = .next (s.answered ⟨.ok, .frame f⟩)) ∧
  (∀ (s : State) (f : Frame), f.wellFormed = false → ∃ e : Status,
    (e = .frameTooShort ∨ e = .crcMismatch ∨ e = .unexpectedDeviceAddress) ∧
    exec (.parseResponse f.serialize) s = .next (s.answered ⟨e, .none⟩))

/-- R137: the serialization, that it is what `CRC_APPEND` makes of a well-formed frame's header and payload, and that it is
the output of `PARSE_RESPONSE`. -/
def Obligations.SerializationIsTheAppendedCrcFrame : Prop :=
  (∀ f : Frame, f.serialize = [f.deviceAddress, f.functionCode, f.byteCount] ++ f.payload ++ [hi f.crc, lo f.crc]) ∧
  (∀ (s : State) (f : Frame), f.wellFormed = true →
    exec (.crcAppend ([f.deviceAddress, f.functionCode, f.byteCount] ++ f.payload)) s =
      .next (s.answered ⟨.ok, .bytes f.serialize⟩)) ∧
  (∀ f : Frame, Response.toBytes ⟨.ok, .frame f⟩ = 0x00 :: f.serialize)

/-- R133: the function check, the odd check, and word k from payload bytes 2k and 2k + 1, high byte first. -/
def Obligations.ExtractWordsSplitsTelemetryPayloads : Prop :=
  ∀ (s : State) (addr fc bc : Byte) (payload : List Byte), payload.length = bc.toNat →
    encode (.extractWords addr fc bc payload) = [0x12, addr, fc, bc] ++ payload ∧
    exec (.extractWords addr fc bc payload) s = .next (s.answered
      (if fc ≠ 0x04 then ⟨.unsupportedFunction, .none⟩
       else if bc.toNat % 2 = 1 then ⟨.oddByteCount, .none⟩
       else ⟨.ok, .words ((List.range (bc.toNat / 2)).map fun k =>
         be16 (byteAt payload (2 * k)) (byteAt payload (2 * k + 1)))⟩))

/-- R133 and V9: the words on the wire are the payload bytes, unchanged. -/
def Obligations.ExtractedWordsCarryThePayload : Prop :=
  ∀ (s : State) (addr bc : Byte) (payload : List Byte), payload.length = bc.toNat → bc.toNat % 2 = 0 → ∃ r : Response,
    exec (.extractWords addr 0x04 bc payload) s = .next (s.answered r) ∧ r.toBytes = 0x00 :: payload

/-- Log entry 5 (R74 (d) read at the level of commands): an `EXTRACT_WORDS` whose payload is not `bc` bytes long is answered
`IllegalCommand` and writes no state. -/
def Obligations.MismatchedPayloadIsIllegal : Prop :=
  ∀ (s : State) (addr fc bc : Byte) (payload : List Byte), payload.length ≠ bc.toNat →
    exec (.extractWords addr fc bc payload) s = .next (s.answered ⟨.illegalCommand, .none⟩)

/-! ## The reassembler -/

/-- R160: `RLEN` becomes 0, and nothing else changes but the response list. -/
def Obligations.RaResetEmptiesTheBufferOnly : Prop :=
  encode .raReset = [0x20] ∧ ∀ s : State, ∃ t : State, exec .raReset s = .next t ∧ t.rlen = 0 ∧
    t = { s with rbuf := [], responses := s.responses ++ [⟨.ok, .none⟩] }

/-- R161: the four cases, for the buffered bytes followed by the chunk. -/
def Obligations.RaFeedClassifiesTheAccumulatedBytes : Prop :=
  ∀ (s : State) (chunk t : List Byte) (e : Nat), t = s.rbuf ++ chunk → e = 3 + (byteAt t 2).toNat + 2 →
    encode (.raFeed chunk) = 0x21 :: chunk ∧
    (t.length < 3 → exec (.raFeed chunk) s =
      .next { s with rbuf := t, responses := s.responses ++ [⟨.incomplete, .none⟩] }) ∧
    (3 ≤ t.length → t.length < e → exec (.raFeed chunk) s =
      .next { s with rbuf := t, responses := s.responses ++ [⟨.incomplete, .none⟩] }) ∧
    (3 ≤ t.length → t.length = e → exec (.raFeed chunk) s =
      .next { s with rbuf := [], responses := s.responses ++ [⟨.complete, .bytes t⟩] }) ∧
    (3 ≤ t.length → t.length > e → exec (.raFeed chunk) s =
      .next { s with rbuf := [], responses := s.responses ++ [⟨.overflow, .none⟩] })

/-- R23, R162: an accumulation beyond 260 bytes is `Overflow` whatever the bytes are, so 260 bytes of buffer suffice. -/
def Obligations.BeyondCapacityIsAlwaysOverflow : Prop :=
  ∀ (s : State) (chunk : List Byte), s.rlen + chunk.length > 260 → exec (.raFeed chunk) s =
    .next { s with rbuf := [], responses := s.responses ++ [⟨.overflow, .none⟩] }

/-- R166: an empty chunk into a buffer at rest is `Incomplete` and changes no state. -/
def Obligations.EmptyChunkChangesNothing : Prop :=
  ∀ s : State, s.BufferAtRest → exec (.raFeed []) s = .next (s.answered ⟨.incomplete, .none⟩)

/-- R167: the shortest frame, one byte more than it, and the longest frame, each into an empty buffer; no
expected length is below 5 or above 260. -/
def Obligations.ShortestAndLongestFrames : Prop :=
  (∀ t : List Byte, 5 ≤ expectedLen t ∧ expectedLen t ≤ 260) ∧
  ∀ s : State, s.rbuf = [] →
    exec (.raFeed [0x11, 0x04, 0x00, 0x05, 0x23]) s = .next (s.answered ⟨.complete, .bytes [0x11, 0x04, 0x00, 0x05, 0x23]⟩) ∧
    exec (.raFeed [0x11, 0x04, 0x00, 0x05, 0x23, 0x11]) s = .next (s.answered ⟨.overflow, .none⟩) ∧
    (∀ (a b : Byte) (rest : List Byte), rest.length = 2 → exec (.raFeed ([a, b, 0] ++ rest)) s =
      .next (s.answered ⟨.complete, .bytes ([a, b, 0] ++ rest)⟩)) ∧
    (∀ (a b : Byte) (rest : List Byte), rest.length = 257 → exec (.raFeed ([a, b, 255] ++ rest)) s =
      .next (s.answered ⟨.complete, .bytes ([a, b, 255] ++ rest)⟩))

/-- R163, R140: a `Complete` answer is the buffered bytes followed by the chunk, of the length its third byte gives, and
`PARSE_RESPONSE` of it is `CrcMismatch`, `UnexpectedDeviceAddress` or `OK`, never `FrameTooShort`. -/
def Obligations.CompleteFramesAreNeverTooShort : Prop :=
  ∀ (s t u : State) (chunk : List Byte) (r : Response), exec (.raFeed chunk) s = .next t → t.responses = s.responses ++ [r] →
    r.status = .complete →
    r.outputs = .bytes (s.rbuf ++ chunk) ∧ t.rlen = 0 ∧
    (s.rbuf ++ chunk).length = 3 + (byteAt (s.rbuf ++ chunk) 2).toNat + 2 ∧ 5 ≤ (s.rbuf ++ chunk).length ∧
    ∃ p : Response, exec (.parseResponse (s.rbuf ++ chunk)) u = .next (u.answered p) ∧
      (p.status = .crcMismatch ∨ p.status = .unexpectedDeviceAddress ∨ p.status = .ok)

/-- R168: a frame fed in any contiguous splits, the last of them not empty, into an empty buffer, answers `Incomplete` for
every chunk but the last and `Complete` for the last, as feeding it whole does. -/
def Obligations.SplitsOfAFrameComplete : Prop :=
  ∀ (s : State) (chunks : List (List Byte)) (last frame : List Byte), s.rbuf = [] → frame = chunks.flatten ++ last →
    3 ≤ frame.length → frame.length = 3 + (byteAt frame 2).toNat + 2 → last ≠ [] →
    runCommands (chunks.map .raFeed ++ [.raFeed last]) s = .next { s with
      responses := s.responses ++ List.replicate chunks.length ⟨.incomplete, .none⟩ ++ [⟨.complete, .bytes frame⟩] } ∧
    exec (.raFeed frame) s = .next (s.answered ⟨.complete, .bytes frame⟩)

/-- R169: two frames in one chunk are `Overflow`; in consecutive chunks, each starting at a frame boundary, they are two
`Complete`s. -/
def Obligations.OneFramePerChunk : Prop :=
  ∀ (s : State) (f g : List Byte), s.rbuf = [] →
    3 ≤ f.length → f.length = 3 + (byteAt f 2).toNat + 2 → 3 ≤ g.length → g.length = 3 + (byteAt g 2).toNat + 2 →
    exec (.raFeed (f ++ g)) s = .next (s.answered ⟨.overflow, .none⟩) ∧
    runCommands [.raFeed f, .raFeed g] s =
      .next { s with responses := s.responses ++ [⟨.complete, .bytes f⟩, ⟨.complete, .bytes g⟩] }

/-- R55: as long as every feed answers `Incomplete`, the buffer holds the chunks in the order they were fed. -/
def Obligations.FedBytesKeepTheirOrder : Prop :=
  ∀ (s t : State) (chunks : List (List Byte)), runCommands (chunks.map .raFeed) s = .next t →
    t.responses = s.responses ++ List.replicate chunks.length ⟨.incomplete, .none⟩ →
    t = { s with rbuf := s.rbuf ++ chunks.flatten, responses := t.responses }

/-- R165: the status of a feed depends on the number of accumulated bytes and on the byte at position 2 alone. -/
def Obligations.ReassemblerReadsOnlyByteTwo : Prop :=
  ∀ (s u s' u' : State) (c d : List Byte) (r q : Response),
    (s.rbuf ++ c).length = (u.rbuf ++ d).length → byteAt (s.rbuf ++ c) 2 = byteAt (u.rbuf ++ d) 2 →
    exec (.raFeed c) s = .next s' → exec (.raFeed d) u = .next u' →
    s'.responses = s.responses ++ [r] → u'.responses = u.responses ++ [q] → r.status = q.status

/-- R24, its last but one clause: the invariant holds after reset. -/
def Obligations.BufferIsAtRestAfterReset : Prop :=
  State.reset.BufferAtRest

/-- R24: from every state in which the buffer holds no complete or over-long frame, every step leaves it so. -/
def Obligations.EveryStepKeepsTheBufferAtRest : Prop :=
  ∀ s t : State, s.BufferAtRest → step s = .next t → t.BufferAtRest

/-- R22, R23: a buffer at rest holds at most 259 bytes. -/
def Obligations.RestingBufferFitsItsCapacity : Prop :=
  ∀ s : State, s.BufferAtRest → s.rlen ≤ 259

/-- R216: from the commands it issued and their responses the host knows `RLEN` exactly (`knownRlenAfter`, log entry
17, is the rule as a function). -/
def Obligations.HostKnowsTheBufferLength : Prop :=
  ∀ (program : List Instr) (s t : State) (answers : List Response), runCommands program s = .next t →
    t.responses = s.responses ++ answers → t.rlen = knownRlenAfter s.rlen (program.zip answers)

/-- R232, R168, R138, R133 together: a well-formed telemetry frame, notified in any splits into an empty buffer, is answered
`Complete` with its bytes; the host's reaction to that is `PARSE_RESPONSE` of them, answered `OK` with the frame; its reaction
to that is `EXTRACT_WORDS` of the frame, answered `OK` with words whose bytes are the payload; and to those it does nothing.
That the host reacts by these commands is `hostReaction`, the model's form of R205 and R232 (log entry 17). -/
def Obligations.NotifiedFrameReachesItsWords : Prop :=
  ∀ (s : State) (f : Frame) (chunks : List (List Byte)) (last : List Byte), s.rbuf = [] → f.wellFormed = true →
    f.functionCode = 0x04 → f.byteCount.toNat % 2 = 0 → f.serialize = chunks.flatten ++ last → last ≠ [] →
    ∃ (t u v : State) (r p w : Response) (parse extract : Instr) (ws : List Word),
      r = ⟨.complete, .bytes f.serialize⟩ ∧ parse = .parseResponse f.serialize ∧
      p = ⟨.ok, .frame f⟩ ∧ extract = .extractWords f.deviceAddress f.functionCode f.byteCount f.payload ∧
      w = ⟨.ok, .words ws⟩ ∧ ws.length = f.byteCount.toNat / 2 ∧
      runCommands (chunks.map .raFeed ++ [.raFeed last]) s = .next t ∧ t.responses.getLast? = some r ∧
      hostReaction r = [parse] ∧ exec parse t = .next u ∧ u = t.answered p ∧
      hostReaction p = [extract] ∧ exec extract u = .next v ∧ v = u.answered w ∧
      w.toBytes = 0x00 :: f.payload ∧ hostReaction w = [] ∧ v.rbuf = [] ∧ v.crc = s.crc

/-- R232, R215, V1: the two commands of the initial read empty the buffer, leave `CRC` alone and answer the 8 bytes of the
source's end-to-end vector, from any state (the list of commands is the model's form, log entry 17). -/
def Obligations.InitialReadAsksForEightyFiveRegisters : Prop :=
  ∀ s : State, runCommands initialRead s = .next { s with
    rbuf := [], responses := s.responses ++
      [⟨.ok, .none⟩, ⟨.ok, .bytes [0x11, 0x04, 0x00, 0x00, 0x00, 0x55, 0xA5, 0x32]⟩] }

/-! ## The command interface -/

/-- R70, R71: decoding undoes encoding, for every well-formed command with every operand at every value. -/
def Obligations.DecodeUndoesEncode : Prop :=
  ∀ i : Instr, i.wellFormed = true → decode (encode i) = .ok i

/-- R70, R74: a unit that decodes is the encoding of a well-formed command, so every unit has at most one meaning and no
byte of it is dropped. -/
def Obligations.DecodedUnitsAreEncodings : Prop :=
  ∀ (unit : List Byte) (i : Instr), decode unit = .ok i → encode i = unit ∧ i.wellFormed = true

/-- R74: a unit is malformed exactly when (a), (b), (c) or (d) holds of it, and then the step answers `[0x7F]` and writes
no state. -/
def Obligations.MalformedUnitsAreAnsweredIllegal : Prop :=
  (∀ unit : List Byte, (∃ e, decode unit = .error e) ↔
    match unit with
    | [] => True
    | op :: body =>
      op ∉ [0x01, 0x02, 0x03, 0x04, 0x05, 0x06, 0x10, 0x11, 0x12, 0x20, 0x21] ∨
      (op = 0x02 ∧ body.length < 1) ∨ (op = 0x10 ∧ body.length < 5) ∨ (op = 0x12 ∧ body.length < 3) ∨
      (op ∈ [0x01, 0x03, 0x20] ∧ body ≠ []) ∨ (op = 0x02 ∧ 1 < body.length) ∨ (op = 0x10 ∧ 5 < body.length) ∨
      (op = 0x12 ∧ 3 ≤ body.length ∧ body.length - 3 ≠ (byteAt body 2).toNat)) ∧
  (∀ (s : State) (unit : List Byte) (rest : List Event), s.pending = .command unit :: rest →
    (∃ e, decode unit = .error e) → ∃ r : Response, r.toBytes = [0x7F] ∧
      step s = .next { s with pending := rest, responses := s.responses ++ [r] })

/-- R5, R50: a step with a well-formed command delivered first is that command, performed in the state without it (the
list of delivered commands is the model's, log entry 2). -/
def Obligations.StepRunsTheDecodedCommand : Prop :=
  ∀ (s : State) (unit : List Byte) (rest : List Event) (i : Instr), s.pending = .command unit :: rest →
    decode unit = .ok i → step s = exec i { s with pending := rest }

/-- R78: the four encodings the rule writes out, read by the decoder and written by the encoder. -/
def Obligations.EncodingExamplesOfTheSpec : Prop :=
  (decode [0x10, 0x04, 0x00, 0x00, 0x00, 0x55] = .ok (.buildRequest 0x04 0x0000 0x0055) ∧
    encode (.buildRequest 0x04 0x0000 0x0055) = [0x10, 0x04, 0x00, 0x00, 0x00, 0x55]) ∧
  (decode [0x21, 0x11, 0x04] = .ok (.raFeed [0x11, 0x04]) ∧ encode (.raFeed [0x11, 0x04]) = [0x21, 0x11, 0x04]) ∧
  (decode [0x02, 0x11] = .ok (.crcUpdate 0x11) ∧ encode (.crcUpdate 0x11) = [0x02, 0x11]) ∧
  (decode [0x12, 0x11, 0x04, 0x04, 0x01, 0x7E, 0x00, 0x0A] =
      .ok (.extractWords 0x11 0x04 0x04 [0x01, 0x7E, 0x00, 0x0A]) ∧
    encode (.extractWords 0x11 0x04 0x04 [0x01, 0x7E, 0x00, 0x0A]) = [0x12, 0x11, 0x04, 0x04, 0x01, 0x7E, 0x00, 0x0A])

/-- R72: the output bytes of every kind of answer. -/
def Obligations.ResponsesOnTheWire : Prop :=
  (∀ st : Status, Response.toBytes ⟨st, .none⟩ = [st.code]) ∧
  (∀ v : Word, Response.toBytes ⟨.ok, .value v⟩ = [0x00, hi v, lo v]) ∧
  (∀ bs : List Byte, Response.toBytes ⟨.ok, .bytes bs⟩ = 0x00 :: bs) ∧
  (∀ valid : Bool, Response.toBytes ⟨.ok, .verdict valid⟩ = [0x00, if valid = true then 1 else 0]) ∧
  (∀ f : Frame, Response.toBytes ⟨.ok, .frame f⟩ =
    0x00 :: ([f.deviceAddress, f.functionCode, f.byteCount] ++ f.payload ++ [hi f.crc, lo f.crc])) ∧
  (Response.toBytes ⟨.ok, .words []⟩ = [0x00]) ∧
  (∀ (ws : List Word) (w : Word), Response.toBytes ⟨.ok, .words (ws ++ [w])⟩ =
    Response.toBytes ⟨.ok, .words ws⟩ ++ [hi w, lo w]) ∧
  (∀ bs : List Byte, Response.toBytes ⟨.complete, .bytes bs⟩ = 0x11 :: bs)

/-- R73, R201, R161, R72: the status code of every status, and the statuses each command can be answered with. R73 lists `OK`
as raised by every operation; `RA_FEED` is the exception, for R161 and the table of R72 give it `Incomplete`, `Complete` and
`Overflow` alone, and the statement follows them (log entry 18). -/
def Obligations.StatusesAndWhoRaisesThem : Prop :=
  ([Status.ok, .invalidArgument, .frameTooShort, .crcMismatch, .unexpectedDeviceAddress, .unsupportedFunction, .oddByteCount,
      .incomplete, .complete, .overflow, .illegalCommand].map Status.code =
    [0x00, 0x01, 0x02, 0x03, 0x04, 0x05, 0x06, 0x10, 0x11, 0x12, 0x7F]) ∧
  (∀ (i : Instr) (s t : State) (r : Response), i.wellFormed = true → exec i s = .next t → t.responses = s.responses ++ [r] →
    r.status ∈ allowedStatuses i)

/-- R15, R200, R204: a command that ends in an error has written no state. -/
def Obligations.ErrorsWriteNoState : Prop :=
  ∀ (i : Instr) (s t : State) (r : Response), exec i s = .next t → t.responses = s.responses ++ [r] →
    r.status.kind = .error ∨ r.status.kind = .interfaceError → t = s.answered r ∧ r.outputs = .none

/-- R20, R21, R22, R46: only `CRC_INIT` and `CRC_UPDATE` write `CRC`, only `RA_RESET` and `RA_FEED` write the buffer, and no
command touches what has still to be performed. -/
def Obligations.OnlyTheNamedCommandsWriteEachRegister : Prop :=
  ∀ (i : Instr) (s t : State), exec i s = .next t →
    (t.crc ≠ s.crc → i = .crcInit ∨ ∃ b, i = .crcUpdate b) ∧
    (t.rbuf ≠ s.rbuf → i = .raReset ∨ ∃ chunk, i = .raFeed chunk) ∧
    t.pending = s.pending

/-- R29, R200, R217: every command completes with exactly one response; no command and no step faults or is refused
(log entries 2, 4 and 6). -/
def Obligations.EveryCommandIsAnsweredOnce : Prop :=
  (∀ (i : Instr) (s : State), ∃ (t : State) (r : Response), exec i s = .next t ∧ t.responses = s.responses ++ [r]) ∧
  (∀ (s : State) (unit : List Byte) (rest : List Event), s.pending = .command unit :: rest →
    ∃ (t : State) (r : Response), step s = .next t ∧ t.pending = rest ∧ t.responses = s.responses ++ [r]) ∧
  (∀ s : State, ∃ t : State, step s = .next t)

/-- R47: the commands that write no state answer the same again, `CRC_INIT` and `RA_RESET` are idempotent, `CRC_UPDATE` and
`RA_FEED` are not, and a malformed unit writes no state. -/
def Obligations.SideEffectsAndIdempotency : Prop :=
  (∀ (i : Instr) (s : State), writesCrc i = false → writesBuffer i = false → ∃ r : Response,
    exec i s = .next (s.answered r) ∧ exec i (s.answered r) = .next ((s.answered r).answered r)) ∧
  (∀ (i : Instr) (s t u : State), i = .crcInit ∨ i = .raReset → exec i s = .next t → exec i t = .next u →
    u.crc = t.crc ∧ u.rbuf = t.rbuf) ∧
  (∃ (b : Byte) (s t u : State), exec (.crcUpdate b) s = .next t ∧ exec (.crcUpdate b) t = .next u ∧ u.crc ≠ t.crc) ∧
  (∃ (chunk : List Byte) (s t u : State), exec (.raFeed chunk) s = .next t ∧ exec (.raFeed chunk) t = .next u ∧
    u.rbuf ≠ t.rbuf) ∧
  (∀ (s t : State) (unit : List Byte) (rest : List Event), s.pending = .command unit :: rest →
    (∃ e, decode unit = .error e) → step s = .next t → t.crc = s.crc ∧ t.rbuf = s.rbuf)

/-- R21, R29, D7: the commands that compute on their operands alone answer the same in every state. -/
def Obligations.FrameOperationsDoNotSeeTheState : Prop :=
  ∀ (i : Instr) (s u : State), writesCrc i = false → writesBuffer i = false → i ≠ .crcRead → ∃ r : Response,
    exec i s = .next (s.answered r) ∧ exec i u = .next (u.answered r)

/-- R21, R22, R29: the CRC register and the reassembler do not see each other: two runs that differ in one of them differ,
after any command, in that one alone, and the commands of the other answer the same. -/
def Obligations.CrcAndBufferDoNotInterfere : Prop :=
  (∀ (i : Instr) (s t u : State) (c : Word), exec i s = .next t → exec i { s with crc := c } = .next u →
    u.rbuf = t.rbuf ∧ (i ≠ .crcRead → u.responses = t.responses)) ∧
  (∀ (i : Instr) (s t u : State) (b : List Byte), exec i s = .next t → exec i { s with rbuf := b } = .next u →
    u.crc = t.crc ∧ ((∀ chunk, i ≠ .raFeed chunk) → u.responses = t.responses))

/-- R60, R70, R50: the byte interface performs what the commands mean: running the units of a list of well-formed commands,
issued to a block with nothing pending, ends in the state that performing the commands one after the other ends in (the list of
delivered commands is the model's, log entry 2). -/
def Obligations.ByteInterfacePerformsTheCommands : Prop :=
  ∀ (program : List Instr) (s : State), s.pending = [] → (∀ i ∈ program, i.wellFormed = true) →
    Host.Core.run core program.length (s.issue (program.map encode)) = runCommands program s

/-- R76, R77: a command printed in the assembly notation reads back as that command, and a `CRC_STREAM` line as its
expansion (what R76 leaves open of digits and blanks is log entry 11). -/
def Obligations.AssemblyLinesReadBack : Prop :=
  (∀ i : Instr, i.wellFormed = true → readLine (printLine i) = some [i]) ∧
  (∀ data : List Byte, readLine (crcStreamName ++ ' ' :: printSequence data) = some (crcStream data))

/-- R34, R211, for several blocks held as a list of which one step changes one (the model's form, log entry 8): a step of one
block leaves every other block as it is, and the stepped one as its own step leaves it. -/
def Obligations.BlocksShareNoState : Prop :=
  ∀ (k : Nat) (blocks : List State) (s : State), blocks[k]? = some s → ∃ (t : State) (blocks' : List State),
    step s = .next t ∧ stepInstance k blocks = .next blocks' ∧ blocks'[k]? = some t ∧
    ∀ j, j ≠ k → blocks'[j]? = blocks[j]?
end

