-- ==== Sys2Proof/Laws/Operands.lean ====
section
/-! SUPPORT. The small facts about bytes, words and sequences that the other files' proofs use. -/

namespace Sys2Proof.Machine

theorem be16_hi_lo (v : Word) : be16 (hi v) (lo v) = v := by
  ext i hi'
  simp only [be16, hi, lo, BitVec.getElem_or, BitVec.getElem_shiftLeft, BitVec.getElem_setWidth,
    BitVec.getLsbD_extractLsb']
  by_cases h : i < 8
  · simp [h, BitVec.getLsbD_eq_getElem hi']
  · simp [h, show i - 8 < 8 by omega, show 8 + (i - 8) = i by omega, BitVec.getLsbD_eq_getElem hi']

theorem hi_be16 (h l : Byte) : hi (be16 h l) = h := by
  ext i hi'
  simp [be16, hi, BitVec.getElem_extractLsb', hi', show 8 + i < 16 by omega]

theorem lo_be16 (h l : Byte) : lo (be16 h l) = l := by
  ext i hi'
  simp [be16, lo, BitVec.getElem_extractLsb', hi', show i < 16 by omega]

/-- A 16-bit value is determined by its two bytes, and the bytes by the value. -/
theorem be16_inj {h l h' l' : Byte} : be16 h l = be16 h' l' ↔ h = h' ∧ l = l' := by
  refine ⟨fun e => ⟨?_, ?_⟩, fun ⟨a, b⟩ => a ▸ b ▸ rfl⟩
  · simpa [hi_be16] using congrArg hi e
  · simpa [lo_be16] using congrArg lo e

@[simp] theorem wireBytes_length (v : Word) : (wireBytes v).length = 2 := rfl

@[simp] theorem byteAt_cons_zero (b : Byte) (s : List Byte) : byteAt (b :: s) 0 = b := rfl
@[simp] theorem byteAt_cons_succ (b : Byte) (s : List Byte) (i : Nat) : byteAt (b :: s) (i + 1) = byteAt s i := by
  simp [byteAt]

/-- Reading beyond the first part of a sequence reads the second part. -/
theorem byteAt_append_right (p q : List Byte) (i : Nat) : byteAt (p ++ q) (p.length + i) = byteAt q i := by
  simp [byteAt, List.getD_eq_getElem?_getD, List.getElem?_append_right]

/-- Reading within the first part of a sequence does not see the second part. -/
theorem byteAt_append_left (p q : List Byte) {i : Nat} (h : i < p.length) : byteAt (p ++ q) i = byteAt p i := by
  simp [byteAt, List.getD_eq_getElem?_getD, List.getElem?_append_left h]

theorem slice_zero_length (p q : List Byte) : slice (p ++ q) 0 p.length = p := by
  simp [slice]

@[simp] theorem slice_length (s : List Byte) (a b : Nat) : (slice s a b).length = min (b - a) (s.length - a) := by
  simp [slice]

@[simp] theorem splitWords_nil : splitWords [] = [] := rfl
@[simp] theorem splitWords_cons_cons (h l : Byte) (s : List Byte) : splitWords (h :: l :: s) = be16 h l :: splitWords s := rfl

end Sys2Proof.Machine
end

