-- ==== Sys2Proof/Laws/State.lean ====
section
/-! SUPPORT. What each update of the state leaves in each field. -/

namespace Sys2Proof.Machine

variable (s : State) (v : Word) (t : List Byte) (r : Response) (units : List (List Byte))

@[simp] theorem setCrc_crc : (s.setCrc v).crc = v := rfl
@[simp] theorem setCrc_rbuf : (s.setCrc v).rbuf = s.rbuf := rfl
@[simp] theorem setCrc_pending : (s.setCrc v).pending = s.pending := rfl
@[simp] theorem setCrc_responses : (s.setCrc v).responses = s.responses := rfl

@[simp] theorem setRbuf_crc : (s.setRbuf t).crc = s.crc := rfl
@[simp] theorem setRbuf_rbuf : (s.setRbuf t).rbuf = t := rfl
@[simp] theorem setRbuf_pending : (s.setRbuf t).pending = s.pending := rfl
@[simp] theorem setRbuf_responses : (s.setRbuf t).responses = s.responses := rfl

@[simp] theorem clearRbuf_crc : s.clearRbuf.crc = s.crc := rfl
@[simp] theorem clearRbuf_rbuf : s.clearRbuf.rbuf = [] := rfl
@[simp] theorem clearRbuf_pending : s.clearRbuf.pending = s.pending := rfl
@[simp] theorem clearRbuf_responses : s.clearRbuf.responses = s.responses := rfl

@[simp] theorem respond_crc : (s.respond r).crc = s.crc := rfl
@[simp] theorem respond_rbuf : (s.respond r).rbuf = s.rbuf := rfl
@[simp] theorem respond_pending : (s.respond r).pending = s.pending := rfl
@[simp] theorem respond_responses : (s.respond r).responses = s.responses ++ [r] := rfl

@[simp] theorem blockReset_crc : s.blockReset.crc = Config.crcInit := rfl
@[simp] theorem blockReset_rbuf : s.blockReset.rbuf = [] := rfl
@[simp] theorem blockReset_pending : s.blockReset.pending = s.pending := rfl
@[simp] theorem blockReset_responses : s.blockReset.responses = s.responses := rfl

@[simp] theorem issue_crc : (s.issue units).crc = s.crc := rfl
@[simp] theorem issue_rbuf : (s.issue units).rbuf = s.rbuf := rfl
@[simp] theorem issue_pending : (s.issue units).pending = s.pending ++ units.map .command := rfl
@[simp] theorem issue_responses : (s.issue units).responses = s.responses := rfl

@[simp] theorem setCrc_rlen : (s.setCrc v).rlen = s.rlen := rfl
@[simp] theorem setRbuf_rlen : (s.setRbuf t).rlen = t.length := rfl
@[simp] theorem clearRbuf_rlen : s.clearRbuf.rlen = 0 := rfl
@[simp] theorem respond_rlen : (s.respond r).rlen = s.rlen := rfl
@[simp] theorem blockReset_rlen : s.blockReset.rlen = 0 := rfl
@[simp] theorem issue_rlen : (s.issue units).rlen = s.rlen := rfl

end Sys2Proof.Machine
end

