-- ==== Sys2Proof/Laws/Ops.lean ====
section
/-! SUPPORT. What each shared operation can do, said once: how a command ends, and what a fetch takes. -/

namespace Sys2Proof.Machine

theorem returnOk_next {out : Outputs} {s t : State} (h : returnOk out s = .next t) : t = s.respond ⟨.ok, out⟩ := by
  simpa [returnOk] using h.symm

theorem returnResult_next {st : Status} {out : Outputs} {s t : State} (h : returnResult st out s = .next t) :
    t = s.respond ⟨st, out⟩ := by
  simpa [returnResult] using h.symm

theorem raise_next {e : Status} {s t : State} (h : raise e s = .next t) : t = s.respond ⟨e, .none⟩ := by
  simpa [raise] using h.symm

theorem refuseCommand_next {s t : State} (h : refuseCommand s = .next t) : t = s.respond ⟨.illegalCommand, .none⟩ :=
  raise_next h

/-- An operation that writes no state ends in the state it began in, with one response more: its outputs with `OK`, or
its error with no outputs. -/
theorem settle_next {result : Except Status Outputs} {s t : State} (h : settle result s = .next t) :
    (∃ out, result = .ok out ∧ t = s.respond ⟨.ok, out⟩) ∨ (∃ e, result = .error e ∧ t = s.respond ⟨e, .none⟩) := by
  cases result with
  | ok out => exact .inl ⟨out, rfl, returnOk_next h⟩
  | error e => exact .inr ⟨e, rfl, raise_next h⟩

@[simp] theorem settle_ok (out : Outputs) (s : State) : settle (.ok out) s = .next (s.respond ⟨.ok, out⟩) := rfl
@[simp] theorem settle_error (e : Status) (s : State) : settle (.error e) s = .next (s.respond ⟨e, .none⟩) := rfl

theorem fetch_eq_none {s : State} : s.fetch = none ↔ s.pending = [] := by
  unfold State.fetch
  split <;> simp_all

/-- A fetch takes the oldest delivered event and changes nothing else. -/
theorem fetch_eq_some {s s' : State} {e : Event} :
    s.fetch = some (e, s') ↔ ∃ rest, s.pending = e :: rest ∧ s' = { s with pending := rest } := by
  unfold State.fetch
  split
  · simp_all
  · rename_i e' rest h
    simp only [Option.some.injEq, Prod.mk.injEq, h, List.cons.injEq]
    constructor
    · rintro ⟨rfl, rfl⟩
      exact ⟨rest, ⟨rfl, rfl⟩, rfl⟩
    · rintro ⟨_, ⟨rfl, rfl⟩, rfl⟩
      exact ⟨rfl, rfl⟩

end Sys2Proof.Machine
end

