-- ==== Sys2Proof/Laws/Crc.lean ====
section
/-! SUPPORT. The small facts of the CRC engine: one turn of the loop, and the CRC of the empty sequence and of one byte
more. -/

namespace Sys2Proof.Machine

@[simp] theorem crcShifts_zero (c : Word) : crcShifts 0 c = c := rfl
@[simp] theorem crcShifts_succ (n : Nat) (c : Word) : crcShifts (n + 1) c = crcShifts n (crcShift c) := rfl

theorem crcShift_of_odd {c : Word} (h : c.getLsbD 0 = true) : crcShift c = (c >>> 1) ^^^ Config.crcPoly := by
  simp only [crcShift, h, if_true]

theorem crcShift_of_even {c : Word} (h : c.getLsbD 0 = false) : crcShift c = c >>> 1 := by
  simp only [crcShift, h, Bool.false_eq_true, if_false]

@[simp] theorem crc16_nil : crc16 [] = Config.crcInit := rfl

theorem crc16_concat (s : List Byte) (b : Byte) : crc16 (s ++ [b]) = crcUpdate (crc16 s) b := by
  simp [crc16]

@[simp] theorem appendCrc_length (s : List Byte) : (appendCrc s).length = s.length + 2 := by
  simp [appendCrc]

end Sys2Proof.Machine
end

