-- ==== Sys2Proof/Laws/Decode.lean ====
section
/-! SUPPORT. The operation map read in both directions (30_encoding.md R71). -/

namespace Sys2Proof

@[simp] theorem ofByte_toByte (op : Op) : Op.ofByte op.toByte = some op := by
  cases op <;> rfl

/-- An op byte selects at most one operation, and it is that operation's byte. -/
theorem toByte_of_ofByte {b : Byte} {op : Op} (h : Op.ofByte b = some op) : op.toByte = b := by
  revert h
  revert b
  cases op <;> decide

/-- A command has as many fixed operand bytes as its operation says (R75). -/
@[simp] theorem fixedBytes_length (i : Instr) : i.fixedBytes.length = i.op.fixedLen := by
  cases i <;> rfl

/-- A command has a tail only where its operation takes one (R71). -/
theorem tail_eq_nil {i : Instr} (h : i.op.takesTail = false) : i.tail = [] := by
  cases i <;> simp_all [Instr.op, Op.takesTail, Instr.tail]

end Sys2Proof
end

