-- ==== Sys2Proof/Laws/FrameCodec.lean ====
section
/-! SUPPORT. What the parser and the word split can answer, said once. -/

namespace Sys2Proof.Machine

@[simp] theorem serialize_length (f : Frame) : f.serialize.length = f.payload.length + 5 := by
  simp [Frame.serialize]

theorem wellFormed_iff (f : Frame) : f.wellFormed = true ↔
    f.payload.length = f.byteCount.toNat ∧ f.deviceAddress = Config.devAddr
      ∧ f.crc = crc16 ([f.deviceAddress, f.functionCode, f.byteCount] ++ f.payload) := by
  simp [Frame.wellFormed, and_assoc]

/-- When the word split answers words: the function is telemetry, the byte count is even. -/
theorem extractWords_ok {fc bc : Byte} {payload : List Byte} {ws : List Word} :
    extractWords fc bc payload = .ok ws ↔
      fc = Config.fcTelemetry ∧ bc.toNat % 2 = 0 ∧ ws = splitWords payload := by
  unfold extractWords
  split
  · simp_all
  · split
    · simp_all
    · rename_i hfc hbc
      simp [not_not.mp hfc, show bc.toNat % 2 = 0 by omega, eq_comm]

end Sys2Proof.Machine
end

