-- ==== Sys2Proof/Laws/PerInstr.lean ====
section
/-! SUPPORT. The family of per-command statements: every well-formed command's unit has the length R75 gives it. -/

namespace Sys2Proof.Laws.EncodedLength

/-- The unit of a well-formed command is as long as 30_encoding.md R75 says. -/
def Statement (i : Instr) : Prop := i.wellFormed = true → (encode i).length = i.unitLength

theorem crcInit : Statement .crcInit := fun _ => rfl
theorem crcUpdate (b : Byte) : Statement (.crcUpdate b) := fun _ => rfl
theorem crcRead : Statement .crcRead := fun _ => rfl
theorem crcGen (data : List Byte) : Statement (.crcGen data) := fun _ => by
  simp [encode, Instr.fixedBytes, Instr.tail, Instr.unitLength, Nat.add_comm]
theorem crcAppend (data : List Byte) : Statement (.crcAppend data) := fun _ => by
  simp [encode, Instr.fixedBytes, Instr.tail, Instr.unitLength, Nat.add_comm]
theorem crcCheck (data : List Byte) : Statement (.crcCheck data) := fun _ => by
  simp [encode, Instr.fixedBytes, Instr.tail, Instr.unitLength, Nat.add_comm]
theorem buildRequest (fc : Byte) (start count : Word) : Statement (.buildRequest fc start count) := fun _ => rfl
theorem parseResponse (raw : List Byte) : Statement (.parseResponse raw) := fun _ => by
  simp [encode, Instr.fixedBytes, Instr.tail, Instr.unitLength, Nat.add_comm]
theorem extractWords (addr fc bc : Byte) (payload : List Byte) : Statement (.extractWords addr fc bc payload) := fun h => by
  have h' : payload.length = bc.toNat := by simpa [Instr.wellFormed] using h
  simp [encode, Instr.fixedBytes, Instr.tail, Instr.unitLength, h']
  omega
theorem raReset : Statement .raReset := fun _ => rfl
theorem raFeed (chunk : List Byte) : Statement (.raFeed chunk) := fun _ => by
  simp [encode, Instr.fixedBytes, Instr.tail, Instr.unitLength, Nat.add_comm]

end Sys2Proof.Laws.EncodedLength
end

