-- ==== Sys2Proof/Laws/Reassembler.lean ====
section
/-! SUPPORT. What the classification of accumulated bytes can be, said once for each of its three results. -/

namespace Sys2Proof.Machine

theorem classify_incomplete {t : List Byte} :
    classify t = .incomplete ↔ t.length < Config.hdrLen ∨ t.length < expectedLen t := by
  unfold classify
  split
  · simp_all
  · split
    · simp_all
    · split <;> simp_all

theorem classify_complete {t frame : List Byte} :
    classify t = .complete frame ↔ Config.hdrLen ≤ t.length ∧ t.length = expectedLen t ∧ frame = t := by
  unfold classify
  split
  · simp only [reduceCtorEq, false_iff, not_and]; omega
  · split
    · simp only [reduceCtorEq, false_iff, not_and]; omega
    · split
      · simp_all [eq_comm]
      · simp_all

theorem classify_overflow {t : List Byte} :
    classify t = .overflow ↔ Config.hdrLen ≤ t.length ∧ expectedLen t < t.length := by
  unfold classify
  split
  · simp only [reduceCtorEq, false_iff, not_and]; omega
  · split
    · simp only [reduceCtorEq, false_iff, not_and]; omega
    · split
      · simp only [reduceCtorEq, false_iff, not_and]; omega
      · simp only [true_iff]; omega

end Sys2Proof.Machine
end

