-- ==== Sys2Proof/Laws/Step.lean ====
section
/-! SUPPORT. Everything one step can do, said once. -/

namespace Sys2Proof.Machine

/-- A step that answers a next state is one of four: nothing was delivered, a block reset, a command performed, or a
malformed unit answered. -/
theorem step_cases {s t : State} (h : step s = .next t) :
    (s.pending = [] ∧ t = s) ∨
    (∃ rest, s.pending = .blockReset :: rest ∧ t = { s with pending := rest }.blockReset) ∨
    (∃ unit rest i, s.pending = .command unit :: rest ∧ decode unit = .ok i ∧
      exec i { s with pending := rest } = .next t) ∨
    (∃ unit rest e, s.pending = .command unit :: rest ∧ decode unit = .error e ∧
      t = { s with pending := rest }.respond ⟨.illegalCommand, .none⟩) := by
  unfold step at h
  split at h
  · rename_i hf
    exact .inl ⟨fetch_eq_none.mp hf, by simpa using h.symm⟩
  · rename_i s' hf
    obtain ⟨rest, hp, rfl⟩ := fetch_eq_some.mp hf
    exact .inr (.inl ⟨rest, hp, by simpa using h.symm⟩)
  · rename_i unit s' hf
    obtain ⟨rest, hp, rfl⟩ := fetch_eq_some.mp hf
    split at h
    · rename_i i hd
      exact .inr (.inr (.inl ⟨unit, rest, i, hp, hd, h⟩))
    · rename_i e hd
      exact .inr (.inr (.inr ⟨unit, rest, e, hp, hd, refuseCommand_next h⟩))

end Sys2Proof.Machine
end

