-- ==== Sys2Proof/Tests/Slice0.lean ====
section
/-! SUPPORT. Tests. Every expected result is a vector V<n> of spec/95_test_vectors.md or an example of the rule named; a
name that begins with witness_ shows a state and operands that meet the hypotheses of the obligation it names. -/

-- The tests are many and small: one thread elaborates them in turn, so that the file needs little memory.
set_option Elab.async false

namespace Sys2Proof.Tests

open Sys2Proof Sys2Proof.Machine

/-- A block with this CRC, this buffer, and one command unit delivered. -/
def given (crc : Word) (rbuf unit : List Byte) : State := ⟨crc, rbuf, [.command unit], []⟩

/-- What is seen after a step: the response bytes, `CRC` and the live bytes. -/
def seen : Host.Outcome State Fault Refusal → Option (List (List Byte) × Word × List Byte)
  | .next t => some (t.responses.map Response.toBytes, t.crc, t.rbuf)
  | .fault _ => none
  | .refused _ => none

/-! ## Well-formedness and decoding -/

/-- The payload is one byte and `bc` is 2 (V50). -/
theorem test_illformed_payload : (Instr.extractWords 0x11 0x04 0x02 [0x01]).wellFormed = false := by decide
theorem test_wellformed_payload : (Instr.extractWords 0x11 0x04 0x02 [0x01, 0x7E]).wellFormed = true := by decide

-- One unit per command, written out from R70 and R71.
theorem test_decode_crcInit : decode [0x01] = .ok .crcInit := by decide
theorem test_decode_crcUpdate : decode [0x02, 0x11] = .ok (.crcUpdate 0x11) := by decide
theorem test_decode_crcRead : decode [0x03] = .ok .crcRead := by decide
theorem test_decode_crcGen : decode [0x04, 0x31, 0x32] = .ok (.crcGen [0x31, 0x32]) := by decide
theorem test_decode_crcAppend : decode [0x05, 0x11] = .ok (.crcAppend [0x11]) := by decide
theorem test_decode_crcCheck : decode [0x06, 0xFF, 0xFF] = .ok (.crcCheck [0xFF, 0xFF]) := by decide
theorem test_decode_buildRequest : decode [0x10, 0x03, 0x00, 0x10, 0x00, 0x01] = .ok (.buildRequest 0x03 0x0010 0x0001) := by
  decide
theorem test_decode_parseResponse : decode [0x11, 0x11, 0x04, 0x00, 0x05, 0x23] =
    .ok (.parseResponse [0x11, 0x04, 0x00, 0x05, 0x23]) := by decide
theorem test_decode_extractWords : decode [0x12, 0x11, 0x04, 0x02, 0x01, 0x7E] =
    .ok (.extractWords 0x11 0x04 0x02 [0x01, 0x7E]) := by decide
theorem test_decode_raReset : decode [0x20] = .ok .raReset := by decide
theorem test_decode_raFeed : decode [0x21] = .ok (.raFeed []) := by decide

/-- V50: the malformed units, each by its reason. -/
theorem test_decode_malformed :
    decode [] = .error .noOp ∧
    [0x00, 0x07, 0x0F, 0x13, 0x1F, 0x22, 0xFF].map (fun b => decode [b]) =
      [0x00, 0x07, 0x0F, 0x13, 0x1F, 0x22, 0xFF].map (fun b => .error (.unassignedOp b)) ∧
    decode [0x01, 0x00] = .error .unexpectedTail ∧ decode [0x02] = .error .tooShort ∧
    decode [0x02, 0x11, 0x22] = .error .unexpectedTail ∧ decode [0x03, 0x00] = .error .unexpectedTail ∧
    decode [0x20, 0x00] = .error .unexpectedTail ∧ decode [0x10, 0x04, 0x00, 0x00, 0x00] = .error .tooShort ∧
    decode [0x10, 0x04, 0x00, 0x00, 0x00, 0x55, 0x00] = .error .unexpectedTail ∧
    decode [0x12, 0x11, 0x04] = .error .tooShort ∧ decode [0x12, 0x11, 0x04, 0x02, 0x01] = .error .payloadLength ∧
    decode [0x12, 0x11, 0x04, 0x01, 0x01, 0x7E] = .error .payloadLength := by decide

/-- The op byte of the table alone: the fixed operand bytes above it are zeros. -/
theorem test_decodeTableWord :
    decodeTableWord 8 0x02 = some (.crcUpdate 0x00) ∧ decodeTableWord 8 0x10 = some (.buildRequest 0x00 0x0000 0x0000) ∧
    decodeTableWord 8 0x12 = some (.extractWords 0x00 0x00 0x00 []) ∧ decodeTableWord 16 0x1102 = some (.crcUpdate 0x11) ∧
    decodeTableWord 8 0x21 = some (.raFeed []) ∧ decodeTableWord 8 0x22 = none := by decide

/-- R76: a line with a comment, an operand list, and the pseudo-command of R77. -/
theorem test_readLine :
    readLine ['C', 'R', 'C', '_', 'U', 'P', 'D', 'A', 'T', 'E', ' ', ' ', '0', 'x', '1', '1', ' ', ';', ' ', '0', '2'] =
      some [.crcUpdate 0x11] ∧
    printLine (.buildRequest 0x04 0x0000 0x0055) = mnemonicOf .buildRequest ++
      [' ', '0', 'x', '0', '4', ',', ' ', '0', 'x', '0', '0', '0', '0', ',', ' ', '0', 'x', '0', '0', '5', '5'] ∧
    readLine (crcStreamName ++ [' ', openBrace, '1', '1', ' ', '0', '4', closeBrace]) =
      some [.crcInit, .crcUpdate 0x11, .crcUpdate 0x04] := by decide +kernel

/-! ## One step per command -/

theorem test_crcInit_V13 : seen (step (given 0x1234 [0x11] [0x01])) = some ([[0x00]], 0xFFFF, [0x11]) := by decide +kernel
theorem test_crcUpdate_V13 : seen (step (given 0xFFFF [] [0x02, 0x11])) = some ([[0x00]], 0x4C7F, []) := by decide +kernel
theorem test_crcUpdate_V12 : seen (step (given 0x1234 [] [0x02, 0xAB])) = some ([[0x00]], 0x6852, []) := by decide +kernel
theorem test_crcRead_R105 : seen (step (given 0xA532 [] [0x03])) = some ([[0x00, 0xA5, 0x32]], 0xA532, []) := by
  decide +kernel
theorem test_crcGen_V14 : seen (step (given 0 [] [0x04, 0x31, 0x32, 0x33, 0x34, 0x35, 0x36, 0x37, 0x38, 0x39])) =
    some ([[0x00, 0x4B, 0x37]], 0, []) := by decide +kernel
theorem test_crcGen_empty_V14 : seen (step (given 0 [] [0x04])) = some ([[0x00, 0xFF, 0xFF]], 0, []) := by decide +kernel
theorem test_crcAppend_V14 : seen (step (given 0 [] [0x05, 0x11, 0x04, 0x00, 0x00, 0x00, 0x55])) =
    some ([[0x00, 0x11, 0x04, 0x00, 0x00, 0x00, 0x55, 0xA5, 0x32]], 0, []) := by decide +kernel
theorem test_crcCheck_V15 : seen (step (given 0 [] [0x06, 0x11, 0x04, 0x00, 0x00, 0x00, 0x55, 0xA5, 0x32])) =
    some ([[0x00, 0x01]], 0, []) := by decide +kernel
theorem test_crcCheck_lowFirst_V15 : seen (step (given 0 [] [0x06, 0x11, 0x04, 0x00, 0x00, 0x00, 0x55, 0x32, 0xA5])) =
    some ([[0x00, 0x00]], 0, []) := by decide +kernel
theorem test_buildRequest_V1 : seen (step (given 7 [] [0x10, 0x04, 0x00, 0x00, 0x00, 0x55])) =
    some ([[0x00, 0x11, 0x04, 0x00, 0x00, 0x00, 0x55, 0xA5, 0x32]], 7, []) := by decide +kernel
theorem test_buildRequest_V21 : seen (step (given 7 [] [0x10, 0x05, 0x00, 0x00, 0x00, 0x01])) = some ([[0x01]], 7, []) := by
  decide +kernel
theorem test_parseResponse_V20 : seen (step (given 7 [1] [0x11, 0x11, 0x04, 0x02, 0x01, 0x7E, 0x43, 0xF9])) =
    some ([[0x00, 0x11, 0x04, 0x02, 0x01, 0x7E, 0x43, 0xF9]], 7, [1]) := by decide +kernel
/-- The rows of V22 that raise: 4 bytes, one too long, bad CRC, wrong address, both wrong. -/
theorem test_parseResponse_V22 :
    [[0x11, 0x04, 0x00, 0x05], [0x11, 0x04, 0x00, 0x05, 0x23, 0x00], [0x11, 0x04, 0x02, 0x01, 0x7E, 0xF9, 0x43],
      [0x12, 0x04, 0x02, 0x01, 0x7E, 0x43, 0xBD], [0x12, 0x04, 0x02, 0x01, 0x7E, 0x43, 0xBC]].map parseResponse =
    [.error .frameTooShort, .error .frameTooShort, .error .crcMismatch, .error .unexpectedDeviceAddress,
      .error .crcMismatch] := by decide +kernel
theorem test_extractWords_V30 : seen (step (given 7 [] [0x12, 0x11, 0x04, 0x04, 0x01, 0x7E, 0x00, 0x0A])) =
    some ([[0x00, 0x01, 0x7E, 0x00, 0x0A]], 7, []) := by decide +kernel
theorem test_extractWords_order_V30 : seen (step (given 7 [] [0x12, 0x11, 0x03, 0x01, 0x01])) = some ([[0x05]], 7, []) := by
  decide +kernel
theorem test_raReset_V41 : seen (step (given 7 [0x11, 0x04] [0x20])) = some ([[0x00]], 7, []) := by decide +kernel
theorem test_raFeed_V40 : seen (step (given 7 [0x11] [0x21, 0x04, 0x02, 0x01, 0x7E, 0x43, 0xF9])) =
    some ([[0x11, 0x11, 0x04, 0x02, 0x01, 0x7E, 0x43, 0xF9]], 7, []) := by decide +kernel
theorem test_raFeed_overflow_V40 : seen (step (given 7 [] [0x21, 0x11, 0x04, 0x00, 0x05, 0x23, 0x11])) =
    some ([[0x12]], 7, []) := by decide +kernel
/-- V50: a malformed unit is answered and writes no state. -/
theorem test_malformed_V50 : seen (step (given 7 [0x11] [0x01, 0x00])) = some ([[0x7F]], 7, [0x11]) := by decide +kernel
/-- A table word delivered to a block after reset is the next command performed. -/
theorem test_withFetchWord : seen (step (State.reset.withFetchWord 8 0x03)) = some ([[0x00, 0xFF, 0xFF]], 0xFFFF, []) := by
  decide +kernel
/-- R201: a frame error makes the host reset, a `Complete` frame is parsed (R205, R232). -/
theorem test_hostReaction : hostReaction ⟨.crcMismatch, .none⟩ = [.raReset] ∧
    hostReaction ⟨.complete, .bytes [0x11]⟩ = [.parseResponse [0x11]] ∧ hostReaction ⟨.overflow, .none⟩ = [] := by decide

/-- R33, R217: what is observed of a block after reset; R233: a request is allowed then, and not with partial data. -/
theorem test_reset : State.reset.observation = ([], 0xFFFF, 0, []) ∧ State.reset.RequestAllowed ∧
    ¬ (given 0 [0x11] []).RequestAllowed := by decide

/-! ## Witnesses of the obligations' hypotheses -/

/-- The frame of V20. -/
def v20 : Frame := ⟨0x11, 0x04, 0x02, [0x01, 0x7E], 0x43F9⟩

theorem witness_BlockResetEventRestoresResetValues :
    (⟨0x1234, [1], [.blockReset, .command [0x03]], []⟩ : State).pending = .blockReset :: [.command [0x03]] := rfl
theorem witness_IdleBlockHoldsItsState : State.reset.pending = [] := rfl
theorem witness_CrcCheckComparesTheTrailingValue : ([0xFF] : List Byte).length < 2 := by decide
/-- The first byte, and the last byte of the CRC. -/
theorem witness_SingleByteChangeFailsCrcCheck :
    (0 < (appendCrc [0x11]).length ∧ (0x12 : Byte) ≠ byteAt (appendCrc [0x11]) 0) ∧
    (2 < (appendCrc [0x11]).length ∧ (0x7E : Byte) ≠ byteAt (appendCrc [0x11]) 2) := by decide +kernel
/-- The address, the byte count, and the last byte of the CRC. -/
theorem witness_SingleByteChangeFailsParse : v20.wellFormed = true ∧
    (0 < v20.serialize.length ∧ (0x12 : Byte) ≠ byteAt v20.serialize 0) ∧
    (2 < v20.serialize.length ∧ (0x03 : Byte) ≠ byteAt v20.serialize 2) ∧
    (6 < v20.serialize.length ∧ (0xF8 : Byte) ≠ byteAt v20.serialize 6) := by decide +kernel
/-- The function codes on both sides of `FC_SET`, and naturals one beyond 16 bits. -/
theorem witness_BuildRequestMakesTheFrameOrRefuses :
    ((0x03 : Byte) = 0x03 ∨ (0x03 : Byte) = 0x04) ∧ ((0x04 : Byte) = 0x03 ∨ (0x04 : Byte) = 0x04) ∧
    ((0x02 : Byte) ≠ 0x03 ∧ (0x02 : Byte) ≠ 0x04) ∧ ((0x05 : Byte) ≠ 0x03 ∧ (0x05 : Byte) ≠ 0x04) ∧
    (((4 : Nat) ≠ 3 ∧ (4 : Nat) ≠ 4) ∨ 0x10000 > 0xFFFF ∨ 0 > 0xFFFF) := by decide
theorem witness_RequestsAreValidAndDecodeBack :
    ((0x04 : Byte) = 0x03 ∨ (0x04 : Byte) = 0x04) ∧ hi 0x0000 ≠ 3 := by decide
/-- 4 bytes, 5 bytes that are one short of the length byte 2 gives, and a payload of `bc` bytes, empty included. -/
theorem witness_ParseResponseChecksInOrder :
    ([0x11, 0x04, 0x00, 0x05] : List Byte).length < 5 ∧
    (5 ≤ ([0x11, 0x04, 0x01, 0x05, 0x23] : List Byte).length ∧
      ([0x11, 0x04, 0x01, 0x05, 0x23] : List Byte).length ≠ 3 + (byteAt [0x11, 0x04, 0x01, 0x05, 0x23] 2).toNat + 2) ∧
    ([] : List Byte).length = (0 : Byte).toNat ∧ (List.replicate 255 (0 : Byte)).length = (255 : Byte).toNat := by
  decide +kernel
theorem witness_ParseResponseCornerCases :
    ([0x11, 0x04, 0x00, 0x05] : List Byte).length ≤ 4 ∧
    ([0x11, 0x04, 0x00, 0x05, 0x23, 0x00] : List Byte).length > 3 + (byteAt [0x11, 0x04, 0x00, 0x05, 0x23, 0x00] 2).toNat + 2 ∧
    (([0x01, 0x7E] : List Byte).length = (2 : Byte).toNat ∧ (0x12 : Byte) ≠ 0x11) ∧
    ((0x43F9 : Word) = crc16 ([0x11, 0x04, 0x02] ++ [0x01, 0x7E]) ∧ hi 0x43F9 ≠ lo 0x43F9) ∧
    (0x0523 : Word) = crc16 [0x11, 0x04, 0x00] := by decide +kernel
/-- V20, parsed after reset. -/
theorem witness_ParseOkOutputsEqualTheInput : ∃ (t : State) (r : Response),
    exec (.parseResponse [0x11, 0x04, 0x02, 0x01, 0x7E, 0x43, 0xF9]) State.reset = .next t ∧
    t.responses = State.reset.responses ++ [r] ∧ r.status = .ok := ⟨State.reset.respond ⟨.ok, .frame v20⟩, _, by
  have h : parseResponse [0x11, 0x04, 0x02, 0x01, 0x7E, 0x43, 0xF9] = .ok v20 := by decide +kernel
  simp only [exec, execParseResponse, h]
  rfl, rfl, rfl⟩
theorem witness_ParsedFramesAreWellFormed : ∃ (t : State),
    exec (.parseResponse [0x11, 0x04, 0x02, 0x01, 0x7E, 0x43, 0xF9]) State.reset = .next t ∧
    t.responses = State.reset.responses ++ [⟨.ok, .frame v20⟩] := ⟨State.reset.respond ⟨.ok, .frame v20⟩, by
  have h : parseResponse [0x11, 0x04, 0x02, 0x01, 0x7E, 0x43, 0xF9] = .ok v20 := by decide +kernel
  simp only [exec, execParseResponse, h]
  rfl, rfl⟩
/-- A well-formed frame, and frames that fail in each of the three parts. -/
theorem witness_ParseUndoesSerialize : v20.wellFormed = true ∧ (Frame.wellFormed ⟨0x11, 0x04, 0x03, [0x01, 0x7E], 0x43F9⟩) = false ∧
    (Frame.wellFormed ⟨0x11, 0x04, 0x02, [0x01, 0x7E], 0x43F8⟩) = false ∧
    (Frame.wellFormed ⟨0x12, 0x04, 0x02, [0x01, 0x7E], 0x43BD⟩) = false := by decide +kernel
theorem witness_SerializationIsTheAppendedCrcFrame : v20.wellFormed = true := by decide +kernel
/-- Empty, one byte, and an even number of bytes. -/
theorem witness_ExtractWordsSplitsTelemetryPayloads : ([] : List Byte).length = (0 : Byte).toNat ∧
    ([1] : List Byte).length = (1 : Byte).toNat ∧ ([0x01, 0x7E] : List Byte).length = (2 : Byte).toNat := by decide
theorem witness_ExtractedWordsCarryThePayload :
    ([0x01, 0x7E] : List Byte).length = (2 : Byte).toNat ∧ (2 : Byte).toNat % 2 = 0 := by decide
theorem witness_MismatchedPayloadIsIllegal : ([0x01] : List Byte).length ≠ (2 : Byte).toNat := by decide
/-- 2 bytes, 6 of 7, 7 of 7, and 8 of 7. -/
theorem witness_RaFeedClassifiesTheAccumulatedBytes :
    ([0x11, 0x04] : List Byte).length < 3 ∧
    (3 ≤ ([0x11, 0x04, 0x02, 0x01, 0x7E, 0x43] : List Byte).length ∧
      ([0x11, 0x04, 0x02, 0x01, 0x7E, 0x43] : List Byte).length < 3 + (byteAt [0x11, 0x04, 0x02, 0x01, 0x7E, 0x43] 2).toNat + 2) ∧
    v20.serialize.length = 3 + (byteAt v20.serialize 2).toNat + 2 ∧
    (v20.serialize ++ [0x11]).length > 3 + (byteAt (v20.serialize ++ [0x11]) 2).toNat + 2 := by decide +kernel
theorem witness_BeyondCapacityIsAlwaysOverflow : State.reset.rlen + (List.replicate 261 (0xFF : Byte)).length > 260 := by
  decide +kernel
/-- An empty buffer, and one byte short of a frame. -/
theorem witness_EmptyChunkChangesNothing : State.reset.BufferAtRest ∧
    (⟨0, [0x11, 0x04, 0x00, 0x05], [], []⟩ : State).BufferAtRest := by decide
theorem witness_ShortestAndLongestFrames : State.reset.rbuf = [] ∧ (List.replicate 257 (0 : Byte)).length = 257 ∧
    ([0x05, 0x23] : List Byte).length = 2 := by decide +kernel
/-- The last chunk of V40, command 3. -/
theorem witness_CompleteFramesAreNeverTooShort : ∃ (t : State) (r : Response),
    exec (.raFeed [0x43, 0xF9]) ⟨0xFFFF, [0x11, 0x04, 0x02, 0x01, 0x7E], [], []⟩ = .next t ∧ t.responses = [] ++ [r] ∧
    r.status = .complete := ⟨_, _, rfl, rfl, rfl⟩
/-- V40, commands 1 to 3. -/
theorem witness_SplitsOfAFrameComplete : State.reset.rbuf = [] ∧
    v20.serialize = [[0x11, 0x04, 0x02], [0x01, 0x7E]].flatten ++ [0x43, 0xF9] ∧ 3 ≤ v20.serialize.length ∧
    v20.serialize.length = 3 + (byteAt v20.serialize 2).toNat + 2 ∧ ([0x43, 0xF9] : List Byte) ≠ [] := by decide +kernel
theorem witness_OneFramePerChunk : State.reset.rbuf = [] ∧ 3 ≤ v20.serialize.length ∧
    v20.serialize.length = 3 + (byteAt v20.serialize 2).toNat + 2 ∧ 3 ≤ ([0x11, 0x04, 0x00, 0x05, 0x23] : List Byte).length ∧
    ([0x11, 0x04, 0x00, 0x05, 0x23] : List Byte).length = 3 + (byteAt [0x11, 0x04, 0x00, 0x05, 0x23] 2).toNat + 2 := by
  decide +kernel
theorem witness_FedBytesKeepTheirOrder : ∃ t : State,
    runCommands ([[0x11, 0x04], [0x02]].map .raFeed) State.reset = .next t ∧
    t.responses = State.reset.responses ++ List.replicate 2 ⟨.incomplete, .none⟩ := ⟨_, rfl, rfl⟩
/-- Two different buffers with the same length and the same byte 2. -/
theorem witness_ReassemblerReadsOnlyByteTwo : ∃ (s' u' : State) (r q : Response),
    (([0x11] : List Byte) ++ [0x04, 0x02]).length = (([] : List Byte) ++ [0x99, 0x98, 0x02]).length ∧
    byteAt ([0x11] ++ [0x04, 0x02]) 2 = byteAt ([] ++ [0x99, 0x98, 0x02]) 2 ∧
    exec (.raFeed [0x04, 0x02]) ⟨0, [0x11], [], []⟩ = .next s' ∧ exec (.raFeed [0x99, 0x98, 0x02]) ⟨0, [], [], []⟩ = .next u' ∧
    s'.responses = [] ++ [r] ∧ u'.responses = [] ++ [q] := ⟨_, _, _, _, rfl, rfl, rfl, rfl, rfl, rfl⟩
theorem witness_EveryStepKeepsTheBufferAtRest : ∃ t : State,
    (given 0 [0x11, 0x04] [0x21, 0x02]).BufferAtRest ∧ step (given 0 [0x11, 0x04] [0x21, 0x02]) = .next t :=
  ⟨_, by decide, rfl⟩
/-- The fullest resting buffer: 259 bytes with byte count 255. -/
theorem witness_RestingBufferFitsItsCapacity :
    (⟨0, List.replicate 259 0xFF, [], []⟩ : State).BufferAtRest ∧ (⟨0, List.replicate 259 0xFF, [], []⟩ : State).rlen = 259 := by
  decide +kernel
theorem witness_HostKnowsTheBufferLength : ∃ (t : State) (answers : List Response),
    runCommands [.raFeed [0x11, 0x04], .raReset] State.reset = .next t ∧ t.responses = State.reset.responses ++ answers :=
  ⟨_, _, rfl, rfl⟩
theorem witness_NotifiedFrameReachesItsWords : State.reset.rbuf = [] ∧ v20.wellFormed = true ∧ v20.functionCode = 0x04 ∧
    v20.byteCount.toNat % 2 = 0 ∧ v20.serialize = [[0x11, 0x04, 0x02], [0x01, 0x7E]].flatten ++ [0x43, 0xF9] ∧
    ([0x43, 0xF9] : List Byte) ≠ [] := by decide +kernel
theorem witness_DecodeUndoesEncode : (Instr.extractWords 0x11 0x04 0x00 []).wellFormed = true := by decide
theorem witness_DecodedUnitsAreEncodings : decode [0x12, 0x11, 0x04, 0x00] = .ok (.extractWords 0x11 0x04 0x00 []) := by decide
theorem witness_MalformedUnitsAreAnsweredIllegal :
    (given 0 [] [0x01, 0x00]).pending = .command [0x01, 0x00] :: [] ∧ ∃ e, decode [0x01, 0x00] = .error e :=
  ⟨rfl, _, rfl⟩
theorem witness_StepRunsTheDecodedCommand :
    (given 0 [] [0x02, 0x11]).pending = .command [0x02, 0x11] :: [] ∧ decode [0x02, 0x11] = .ok (.crcUpdate 0x11) :=
  ⟨rfl, by decide⟩
theorem witness_StatusesAndWhoRaisesThem : ∃ (t : State) (r : Response), Instr.crcRead.wellFormed = true ∧
    exec .crcRead State.reset = .next t ∧ t.responses = State.reset.responses ++ [r] := ⟨_, _, rfl, rfl, rfl⟩
/-- An error of an operation, and the interface error. -/
theorem witness_ErrorsWriteNoState : (∃ (t : State) (r : Response),
      exec (.extractWords 0x11 0x03 0x00 []) State.reset = .next t ∧ t.responses = State.reset.responses ++ [r] ∧
      r.status.kind = .error) ∧
    (∃ (t : State) (r : Response), exec (.extractWords 0x11 0x03 0x01 []) State.reset = .next t ∧
      t.responses = State.reset.responses ++ [r] ∧ r.status.kind = .interfaceError) :=
  ⟨⟨_, _, rfl, rfl, rfl⟩, ⟨_, _, rfl, rfl, rfl⟩⟩
/-- A command that writes each register does change it. -/
theorem witness_OnlyTheNamedCommandsWriteEachRegister :
    (∃ t : State, exec .crcInit ⟨0, [], [], []⟩ = .next t ∧ t.crc ≠ 0) ∧
    (∃ t : State, exec (.raFeed [0x11]) ⟨0, [], [], []⟩ = .next t ∧ t.rbuf ≠ []) :=
  ⟨⟨_, rfl, by decide⟩, ⟨_, rfl, by decide⟩⟩
theorem witness_EveryCommandIsAnsweredOnce : (given 0 [] [0x03]).pending = .command [0x03] :: [] := rfl
theorem witness_SideEffectsAndIdempotency : (writesCrc .crcRead = false ∧ writesBuffer .crcRead = false) ∧
    (∃ t u : State, exec .raReset ⟨0, [0x11], [], []⟩ = .next t ∧ exec .raReset t = .next u) ∧
    (∃ t : State, step (given 0 [0x11] [0xFF]) = .next t ∧ ∃ e, decode [0xFF] = .error e) :=
  ⟨by decide, ⟨_, _, rfl, rfl⟩, ⟨_, rfl, _, rfl⟩⟩
theorem witness_FrameOperationsDoNotSeeTheState : writesCrc (.crcGen [0x11]) = false ∧ writesBuffer (.crcGen [0x11]) = false ∧
    Instr.crcGen [0x11] ≠ .crcRead := by decide
theorem witness_CrcAndBufferDoNotInterfere :
    (∃ t u : State, exec (.raFeed [0x11]) State.reset = .next t ∧ exec (.raFeed [0x11]) { State.reset with crc := 0 } = .next u) ∧
    (∃ t u : State, exec .crcInit State.reset = .next t ∧ exec .crcInit { State.reset with rbuf := [0x11] } = .next u) :=
  ⟨⟨_, _, rfl, rfl⟩, ⟨_, _, rfl, rfl⟩⟩
theorem witness_ByteInterfacePerformsTheCommands : State.reset.pending = [] ∧
    ∀ i ∈ [Instr.raFeed [0x11], .raReset, .extractWords 0x11 0x04 0x00 []], i.wellFormed = true := by decide
theorem witness_AssemblyLinesReadBack : (Instr.extractWords 0x11 0x04 0x02 [0x01, 0x7E]).wellFormed = true := by decide
theorem witness_BlocksShareNoState : [State.reset, given 0 [] [0x03]][1]? = some (given 0 [] [0x03]) := rfl

end Sys2Proof.Tests
end

section
/-! The ways a command can end (00_scope.md R15), said once, and the two statements of 00_scope.md that follow from them. -/

namespace Sys2Proof.Machine

/-- `RA_FEED` has one ending per reassembly result (42_reassembler.md R161), and none of them is an error. -/
theorem execRaFeed_next {chunk : List Byte} {s t : State} (h : execRaFeed chunk s = .next t) :
    (classify (s.rbuf ++ chunk) = .incomplete ∧ t = (s.setRbuf (s.rbuf ++ chunk)).respond ⟨.incomplete, .none⟩) ∨
    (∃ frame, classify (s.rbuf ++ chunk) = .complete frame ∧ t = s.clearRbuf.respond ⟨.complete, .bytes frame⟩) ∨
    (classify (s.rbuf ++ chunk) = .overflow ∧ t = s.clearRbuf.respond ⟨.overflow, .none⟩) := by
  simp only [execRaFeed] at h
  split at h
  case h_1 hc => exact .inl ⟨hc, returnResult_next h⟩
  case h_2 frame hc => exact .inr (.inl ⟨frame, hc, returnResult_next h⟩)
  case h_3 hc => exact .inr (.inr ⟨hc, returnResult_next h⟩)

/-- An operation that writes no state only answers: `OK` with its outputs, or an error with none (R15). -/
theorem settle_next_answer {result : Except Status Outputs} {s t : State} (h : settle result s = .next t) :
    (∃ out, t = s.respond ⟨.ok, out⟩) ∨ (∃ e, t = s.respond ⟨e, .none⟩) := by
  obtain ⟨out, -, ht⟩ | ⟨e, -, ht⟩ := settle_next h
  · exact .inl ⟨out, ht⟩
  · exact .inr ⟨e, ht⟩

/-- A command that writes neither register only answers; an `EXTRACT_WORDS` term of another length than its byte count is
refused (log entry 5). -/
theorem exec_next_of_writes_nothing {i : Instr} {s t : State} (hcrc : writesCrc i = false)
    (hbuf : writesBuffer i = false) (h : exec i s = .next t) :
    (∃ out, t = s.respond ⟨.ok, out⟩) ∨ (∃ e, t = s.respond ⟨e, .none⟩) := by
  cases i with
  | crcInit | crcUpdate => cases hcrc
  | raReset | raFeed => cases hbuf
  | crcRead | crcGen | crcAppend | crcCheck => exact .inl ⟨_, returnOk_next h⟩
  | buildRequest | parseResponse => exact settle_next_answer h
  | extractWords addr fc bc payload =>
    simp only [exec, execExtractWords] at h
    split at h
    · exact .inr ⟨_, refuseCommand_next h⟩
    · exact settle_next_answer h

/-- A command that writes `CRC` answers `OK` with no outputs (40_crc.md R103, R104). -/
theorem exec_next_of_writesCrc {i : Instr} {s t : State} (hcrc : writesCrc i = true) (h : exec i s = .next t) :
    ∃ v, t = (s.setCrc v).respond ⟨.ok, .none⟩ := by
  cases i with
  | crcInit | crcUpdate => exact ⟨_, returnOk_next h⟩
  | _ => cases hcrc

/-- A command that writes the buffer answers `OK` or a reassembly result (42_reassembler.md R160, R161). -/
theorem exec_next_of_writesBuffer {i : Instr} {s t : State} (hbuf : writesBuffer i = true) (h : exec i s = .next t) :
    ∃ buf st out, (st.kind = .success ∨ st.kind = .reassemblyResult) ∧ t = (s.setRbuf buf).respond ⟨st, out⟩ := by
  cases i with
  | raReset => exact ⟨[], _, _, .inl rfl, returnOk_next h⟩
  | raFeed chunk =>
    obtain ⟨-, ht⟩ | ⟨frame, -, ht⟩ | ⟨-, ht⟩ := execRaFeed_next h
    · exact ⟨_, _, _, .inr rfl, ht⟩
    · exact ⟨[], _, _, .inr rfl, ht⟩
    · exact ⟨[], _, _, .inr rfl, ht⟩
  | _ => cases hbuf

/-- A command that is answered with an error or `IllegalCommand` is one that writes neither register. -/
theorem writes_nothing_of_error {i : Instr} {s t : State} {r : Response} (h : exec i s = .next t)
    (hr : t.responses = s.responses ++ [r]) (herr : r.status.kind = .error ∨ r.status.kind = .interfaceError) :
    writesCrc i = false ∧ writesBuffer i = false := by
  constructor
  · by_contra hcrc
    obtain ⟨v, rfl⟩ := exec_next_of_writesCrc (by simpa using hcrc) h
    obtain rfl : _ = r := by simpa using hr
    simp [Status.kind] at herr
  · by_contra hbuf
    obtain ⟨buf, st, out, hst, rfl⟩ := exec_next_of_writesBuffer (by simpa using hbuf) h
    obtain rfl : _ = r := by simpa using hr
    obtain hst | hst := hst <;> simp [hst] at herr

/-- Settles O52: an error answer excludes the writing commands, and the others leave the state with the answer only. -/
theorem errorsWriteNoState : Obligations.ErrorsWriteNoState := by
  intro i s t r h hr herr
  obtain ⟨hcrc, hbuf⟩ := writes_nothing_of_error h hr herr
  obtain ⟨out, rfl⟩ | ⟨e, rfl⟩ := exec_next_of_writes_nothing hcrc hbuf h
  · obtain rfl : _ = r := by simpa using hr
    simp [Status.kind] at herr
  · obtain rfl : _ = r := by simpa using hr
    exact ⟨rfl, rfl⟩

/-- Settles O48: the fetch takes the unit and leaves the rest, and the decoder gives the command that is performed. -/
theorem stepRunsTheDecodedCommand : Obligations.StepRunsTheDecodedCommand := by
  intro s unit rest i hpending hdecode
  have hfetch : s.fetch = some (.command unit, { s with pending := rest }) := fetch_eq_some.mpr ⟨rest, hpending, rfl⟩
  simp only [step, hfetch, hdecode]

end Sys2Proof.Machine
end

section
/-! What each command reads and writes of the block's state (10_state.md R20 to R22), said once, and the statements of
10_state.md about single commands that follow from it. -/

namespace Sys2Proof.Machine

/-- The bytes the buffer keeps of the accumulated bytes `t` (42_reassembler.md R161). -/
def keptBytes (t : List Byte) : List Byte := if classify t = .incomplete then t else []

/-- The answer to a feed whose accumulated bytes are `t` (42_reassembler.md R161). -/
def feedAnswer (t : List Byte) : Response :=
  match classify t with
  | .incomplete => ⟨.incomplete, .none⟩
  | .complete frame => ⟨.complete, .bytes frame⟩
  | .overflow => ⟨.overflow, .none⟩

theorem exec_raFeed (chunk : List Byte) (s : State) : exec (.raFeed chunk) s =
    .next ((s.setRbuf (keptBytes (s.rbuf ++ chunk))).respond (feedAnswer (s.rbuf ++ chunk))) := by
  simp only [exec, execRaFeed, keptBytes, feedAnswer]
  cases classify (s.rbuf ++ chunk) <;> rfl

/-- What a command does, as a function of the two registers: their new values and the answer. -/
structure Effect where
  crc : Word → Word
  rbuf : List Byte → List Byte
  answer : Word → List Byte → Response

/-- The state a command with this effect leaves. -/
def Effect.apply (e : Effect) (s : State) : State :=
  ((s.setCrc (e.crc s.crc)).setRbuf (e.rbuf s.rbuf)).respond (e.answer s.crc s.rbuf)

@[simp] theorem Effect.apply_crc (e : Effect) (s : State) : (e.apply s).crc = e.crc s.crc := rfl
@[simp] theorem Effect.apply_rbuf (e : Effect) (s : State) : (e.apply s).rbuf = e.rbuf s.rbuf := rfl
@[simp] theorem Effect.apply_pending (e : Effect) (s : State) : (e.apply s).pending = s.pending := rfl
@[simp] theorem Effect.apply_responses (e : Effect) (s : State) :
    (e.apply s).responses = s.responses ++ [e.answer s.crc s.rbuf] := rfl

/-- An effect stays within what 10_state.md allows the command: it writes only the command's registers, `CRC_READ` alone
answers by `CRC`, and `RA_FEED` alone answers by the buffer. -/
structure Effect.Within (e : Effect) (i : Instr) : Prop where
  keeps_crc : writesCrc i = false → e.crc = id
  keeps_rbuf : writesBuffer i = false → e.rbuf = id
  answer_crc : i ≠ .crcRead → ∀ c c' b, e.answer c b = e.answer c' b
  answer_rbuf : (∀ chunk, i ≠ .raFeed chunk) → ∀ c b b', e.answer c b = e.answer c b'

/-- The effect of a command that only answers. -/
def Effect.answering (r : Response) : Effect := ⟨id, id, fun _ _ => r⟩

theorem Effect.answering_within (r : Response) (i : Instr) : (Effect.answering r).Within i :=
  ⟨fun _ => rfl, fun _ => rfl, fun _ _ _ _ => rfl, fun _ _ _ _ => rfl⟩

/-- The end of an operation that writes no state answers the same in every state. -/
theorem settle_eq_answering (result : Except Status Outputs) :
    ∃ r, ∀ s, settle result s = .next ((Effect.answering r).apply s) := by
  cases result with
  | ok out => exact ⟨⟨.ok, out⟩, fun _ => rfl⟩
  | error e => exact ⟨⟨e, .none⟩, fun _ => rfl⟩

/-- `EXTRACT_WORDS` only answers, and the same in every state. -/
theorem execExtractWords_eq_answering (addr fc bc : Byte) (payload : List Byte) :
    ∃ r, ∀ s, execExtractWords addr fc bc payload s = .next ((Effect.answering r).apply s) := by
  unfold execExtractWords
  split
  · exact ⟨⟨.illegalCommand, .none⟩, fun _ => rfl⟩
  · exact settle_eq_answering _

/-- Every command has an effect within what 10_state.md allows it. -/
theorem exec_eq_effect (i : Instr) : ∃ e : Effect, e.Within i ∧ ∀ s, exec i s = .next (e.apply s) := by
  cases i with
  | crcInit =>
    exact ⟨⟨fun _ => Config.crcInit, id, fun _ _ => ⟨.ok, .none⟩⟩,
      ⟨nofun, fun _ => rfl, fun _ _ _ _ => rfl, fun _ _ _ _ => rfl⟩, fun _ => rfl⟩
  | crcUpdate b =>
    exact ⟨⟨(crcUpdate · b), id, fun _ _ => ⟨.ok, .none⟩⟩,
      ⟨nofun, fun _ => rfl, fun _ _ _ _ => rfl, fun _ _ _ _ => rfl⟩, fun _ => rfl⟩
  | crcRead =>
    exact ⟨⟨id, id, fun c _ => ⟨.ok, .value c⟩⟩,
      ⟨fun _ => rfl, fun _ => rfl, fun h => absurd rfl h, fun _ _ _ _ => rfl⟩, fun _ => rfl⟩
  | crcGen | crcAppend | crcCheck => exact ⟨_, Effect.answering_within _ _, fun _ => rfl⟩
  | buildRequest | parseResponse =>
    obtain ⟨r, hr⟩ := settle_eq_answering _
    exact ⟨_, Effect.answering_within r _, hr⟩
  | extractWords addr fc bc payload =>
    obtain ⟨r, hr⟩ := execExtractWords_eq_answering addr fc bc payload
    exact ⟨_, Effect.answering_within r _, hr⟩
  | raReset =>
    exact ⟨⟨id, fun _ => [], fun _ _ => ⟨.ok, .none⟩⟩,
      ⟨fun _ => rfl, nofun, fun _ _ _ _ => rfl, fun _ _ _ _ => rfl⟩, fun _ => rfl⟩
  | raFeed chunk =>
    exact ⟨⟨id, fun b => keptBytes (b ++ chunk), fun _ b => feedAnswer (b ++ chunk)⟩,
      ⟨fun _ => rfl, nofun, fun _ _ _ _ => rfl, fun h => absurd rfl (h chunk)⟩, exec_raFeed chunk⟩

/-- A command that answers a next state ends as its effect says. -/
theorem exec_next {i : Instr} {s t : State} (h : exec i s = .next t) :
    ∃ e : Effect, e.Within i ∧ t = e.apply s := by
  obtain ⟨e, he, hexec⟩ := exec_eq_effect i
  exact ⟨e, he, by simpa [hexec] using h.symm⟩

theorem exec_crc {i : Instr} {s t : State} (hcrc : writesCrc i = false) (h : exec i s = .next t) : t.crc = s.crc := by
  obtain ⟨e, he, rfl⟩ := exec_next h
  simp [he.keeps_crc hcrc]

theorem exec_rbuf {i : Instr} {s t : State} (hbuf : writesBuffer i = false) (h : exec i s = .next t) :
    t.rbuf = s.rbuf := by
  obtain ⟨e, he, rfl⟩ := exec_next h
  simp [he.keeps_rbuf hbuf]

theorem exec_pending {i : Instr} {s t : State} (h : exec i s = .next t) : t.pending = s.pending := by
  obtain ⟨e, -, rfl⟩ := exec_next h
  rfl

/-- Every command completes, with one response (10_state.md R29). -/
theorem exec_answers (i : Instr) (s : State) :
    ∃ (t : State) (r : Response), exec i s = .next t ∧ t.responses = s.responses ++ [r] := by
  obtain ⟨e, -, hexec⟩ := exec_eq_effect i
  exact ⟨_, _, hexec s, rfl⟩

theorem eq_of_writesCrc {i : Instr} (h : writesCrc i = true) : i = .crcInit ∨ ∃ b, i = .crcUpdate b := by
  cases i with
  | crcInit => exact .inl rfl
  | crcUpdate b => exact .inr ⟨b, rfl⟩
  | _ => cases h

theorem eq_of_writesBuffer {i : Instr} (h : writesBuffer i = true) : i = .raReset ∨ ∃ chunk, i = .raFeed chunk := by
  cases i with
  | raReset => exact .inl rfl
  | raFeed chunk => exact .inr ⟨chunk, rfl⟩
  | _ => cases h

/-- Settles O53: a register that changed belongs to a command that may write it. -/
theorem onlyTheNamedCommandsWriteEachRegister : Obligations.OnlyTheNamedCommandsWriteEachRegister := by
  intro i s t h
  refine ⟨fun hne => eq_of_writesCrc ?_, fun hne => eq_of_writesBuffer ?_, exec_pending h⟩
  · by_contra hcrc
    exact hne (exec_crc (by simpa using hcrc) h)
  · by_contra hbuf
    exact hne (exec_rbuf (by simpa using hbuf) h)

/-- Settles O56: the effect of such a command keeps both registers, and its answer reads neither. -/
theorem frameOperationsDoNotSeeTheState : Obligations.FrameOperationsDoNotSeeTheState := by
  intro i s u hcrc hbuf hread
  obtain ⟨⟨crc, rbuf, answer⟩, he, hexec⟩ := exec_eq_effect i
  obtain rfl : crc = id := he.keeps_crc hcrc
  obtain rfl : rbuf = id := he.keeps_rbuf hbuf
  have hfeed : ∀ chunk, i ≠ .raFeed chunk := by
    rintro chunk rfl
    cases hbuf
  have hanswer : answer u.crc u.rbuf = answer s.crc s.rbuf :=
    (he.answer_crc hread _ _ _).trans (he.answer_rbuf hfeed _ _ _)
  refine ⟨answer s.crc s.rbuf, hexec s, (hexec u).trans ?_⟩
  rw [← hanswer]
  rfl

/-- Settles O57: both runs have one effect, which writes each register from that register alone. -/
theorem crcAndBufferDoNotInterfere : Obligations.CrcAndBufferDoNotInterfere := by
  constructor
  · intro i s t u c ht hu
    obtain ⟨e, he, hexec⟩ := exec_eq_effect i
    obtain rfl : e.apply s = t := by simpa [hexec] using ht
    obtain rfl : e.apply { s with crc := c } = u := by simpa [hexec] using hu
    exact ⟨rfl, fun hread => by simp [he.answer_crc hread c s.crc]⟩
  · intro i s t u b ht hu
    obtain ⟨e, he, hexec⟩ := exec_eq_effect i
    obtain rfl : e.apply s = t := by simpa [hexec] using ht
    obtain rfl : e.apply { s with rbuf := b } = u := by simpa [hexec] using hu
    exact ⟨rfl, fun hfeed => by simp [he.answer_rbuf hfeed s.crc b s.rbuf]⟩

end Sys2Proof.Machine
end

section
/-! Steps and several blocks: every step answers a next state, and a step of one block is its own. -/

namespace Sys2Proof.Machine

/-- A delivered unit is answered once and removed, whether it decodes or not (60_exceptions.md R200). -/
theorem step_answers_command {s : State} {unit : List Byte} {rest : List Event}
    (hpending : s.pending = .command unit :: rest) :
    ∃ (t : State) (r : Response), step s = .next t ∧ t.pending = rest ∧ t.responses = s.responses ++ [r] := by
  have hfetch : s.fetch = some (.command unit, { s with pending := rest }) := fetch_eq_some.mpr ⟨rest, hpending, rfl⟩
  cases hdecode : decode unit with
  | ok i =>
    obtain ⟨t, r, hexec, hr⟩ := exec_answers i { s with pending := rest }
    exact ⟨t, r, by simp only [step, hfetch, hdecode, hexec], exec_pending hexec, hr⟩
  | error e => exact ⟨_, ⟨.illegalCommand, .none⟩, by simp only [step, hfetch, hdecode]; rfl, rfl, rfl⟩

/-- No step stops the block (60_exceptions.md R200; log entry 6). -/
theorem step_next (s : State) : ∃ t, step s = .next t := by
  match hpending : s.pending with
  | [] => exact ⟨s, by simp only [step, fetch_eq_none.mpr hpending]⟩
  | .blockReset :: rest =>
    have hfetch : s.fetch = some (.blockReset, { s with pending := rest }) := fetch_eq_some.mpr ⟨rest, hpending, rfl⟩
    exact ⟨{ s with pending := rest }.blockReset, by simp only [step, hfetch]⟩
  | .command unit :: rest =>
    obtain ⟨t, -, ht, -⟩ := step_answers_command hpending
    exact ⟨t, ht⟩

/-- Settles O54: commands by their effect, steps by the decoder's two results. -/
theorem everyCommandIsAnsweredOnce : Obligations.EveryCommandIsAnsweredOnce :=
  ⟨exec_answers, fun _ _ _ => step_answers_command, step_next⟩

theorem stepInstance_eq {k : Nat} {blocks : List State} {s t : State} (hk : blocks[k]? = some s)
    (h : step s = .next t) : stepInstance k blocks = .next (blocks.set k t) := by
  simp only [stepInstance, hk, h]

/-- Settles O60: the step replaces the k-th element of the list and no other. -/
theorem blocksShareNoState : Obligations.BlocksShareNoState := by
  intro k blocks s hk
  obtain ⟨t, ht⟩ := step_next s
  obtain ⟨hlt, -⟩ := List.getElem?_eq_some_iff.mp hk
  exact ⟨t, blocks.set k t, ht, stepInstance_eq hk ht, List.getElem?_set_self hlt,
    fun j hj => List.getElem?_set_ne hj.symm⟩

end Sys2Proof.Machine
end

section
/-! The reset values (10_state.md R33), the capacity of the buffer (R23) and its invariant (R24). -/

namespace Sys2Proof.Machine

/-- Settles O1: the values stand in `State.reset`. -/
theorem resetLeavesTheSpecsValues : Obligations.ResetLeavesTheSpecsValues := ⟨rfl, rfl⟩

/-- The longest frame has a byte count of 255 (10_state.md R23). -/
theorem expectedLen_le (t : List Byte) : expectedLen t ≤ 260 := by
  have hbyte : (byteAt t 2).toNat < 256 := (byteAt t 2).isLt
  simp only [expectedLen, Config.hdrLen, Config.crcLen]
  omega

/-- The invariant says that the buffered bytes classify as incomplete. -/
theorem bufferAtRest_iff {s : State} : s.BufferAtRest ↔ classify s.rbuf = .incomplete :=
  classify_incomplete.symm

theorem bufferAtRest_of_rbuf_eq_nil {s : State} (h : s.rbuf = []) : s.BufferAtRest := by
  rw [bufferAtRest_iff, h]
  rfl

theorem bufferAtRest_of_rbuf_eq {s t : State} (hs : s.BufferAtRest) (h : t.rbuf = s.rbuf) : t.BufferAtRest := by
  rw [bufferAtRest_iff] at hs ⊢
  rw [h, hs]

/-- What a feed keeps is incomplete, whatever it was given. -/
theorem classify_keptBytes (t : List Byte) : classify (keptBytes t) = .incomplete := by
  unfold keptBytes
  split
  · assumption
  · rfl

/-- Settles O39: the buffer is empty after reset. -/
theorem bufferIsAtRestAfterReset : Obligations.BufferIsAtRestAfterReset := bufferAtRest_of_rbuf_eq_nil rfl

/-- Settles O41: a resting buffer is shorter than the expected length, which is at most 260. -/
theorem restingBufferFitsItsCapacity : Obligations.RestingBufferFitsItsCapacity := by
  intro s hs
  have hlen : s.rlen < 3 ∨ s.rlen < expectedLen s.rbuf := hs
  have hcap := expectedLen_le s.rbuf
  omega

/-- Settles O31: no expected length is above 260, so more bytes than that classify as overflow. -/
theorem beyondCapacityIsAlwaysOverflow : Obligations.BeyondCapacityIsAlwaysOverflow := by
  intro s chunk h
  have hlong : 260 < (s.rbuf ++ chunk).length := by simpa [State.rlen] using h
  have hover : classify (s.rbuf ++ chunk) = .overflow :=
    classify_overflow.mpr ⟨by simp only [Config.hdrLen]; omega, (expectedLen_le _).trans_lt hlong⟩
  simp only [exec_raFeed, keptBytes, feedAnswer, hover]
  rfl

/-- A command keeps the buffer invariant: it leaves the buffer, empties it, or keeps what is incomplete. -/
theorem exec_keeps_bufferAtRest {i : Instr} {s t : State} (hs : s.BufferAtRest) (h : exec i s = .next t) :
    t.BufferAtRest := by
  cases hbuf : writesBuffer i with
  | false => exact bufferAtRest_of_rbuf_eq hs (exec_rbuf hbuf h)
  | true =>
    obtain rfl | ⟨chunk, rfl⟩ := eq_of_writesBuffer hbuf
    · obtain rfl := returnOk_next h
      exact bufferAtRest_of_rbuf_eq_nil rfl
    · obtain rfl : _ = t := by simpa only [exec_raFeed, Host.Outcome.next.injEq] using h
      exact bufferAtRest_iff.mpr (classify_keptBytes _)

/-- Settles O40: a step leaves the buffer, empties it by a block reset, or performs a command. -/
theorem everyStepKeepsTheBufferAtRest : Obligations.EveryStepKeepsTheBufferAtRest := by
  intro s t hs h
  obtain ⟨-, rfl⟩ | ⟨rest, -, rfl⟩ | ⟨unit, rest, i, -, -, hexec⟩ | ⟨unit, rest, e, -, -, rfl⟩ := step_cases h
  · exact hs
  · exact bufferAtRest_of_rbuf_eq_nil rfl
  · exact exec_keeps_bufferAtRest (s := { s with pending := rest }) hs hexec
  · exact bufferAtRest_of_rbuf_eq hs rfl

end Sys2Proof.Machine
end

section
/-! Runs of commands (20_memory.md R50), the order of the fed bytes (R55), and side effects and idempotency (R47). -/

namespace Sys2Proof.Machine

/-- A run that ends in a next state performs its first command, then the others. -/
theorem runCommands_cons_next {i : Instr} {rest : List Instr} {s t : State}
    (h : runCommands (i :: rest) s = .next t) : ∃ u, exec i s = .next u ∧ runCommands rest u = .next t := by
  obtain ⟨u, -, hexec, -⟩ := exec_answers i s
  exact ⟨u, hexec, by simpa only [runCommands, hexec] using h⟩

/-- A run takes back no response (60_exceptions.md R217). -/
theorem runCommands_responses_prefix {program : List Instr} {s t : State} (h : runCommands program s = .next t) :
    s.responses <+: t.responses := by
  induction program generalizing s with
  | nil =>
    obtain rfl : s = t := by simpa [runCommands] using h
    exact List.prefix_rfl
  | cons i rest ih =>
    obtain ⟨u, hexec, hrun⟩ := runCommands_cons_next h
    obtain ⟨e, -, rfl⟩ := exec_next hexec
    exact (List.prefix_append _ _).trans (ih hrun)

/-- A feed answers `Incomplete` only where the accumulated bytes are incomplete (42_reassembler.md R161). -/
theorem classify_of_feedAnswer_incomplete {t : List Byte} (h : feedAnswer t = ⟨.incomplete, .none⟩) :
    classify t = .incomplete := by
  unfold feedAnswer at h
  split at h
  · assumption
  · simp at h
  · simp at h

/-- A feed that answers `Incomplete` appends its chunk to the buffer. -/
theorem exec_raFeed_of_incomplete {chunk : List Byte} {s : State}
    (h : feedAnswer (s.rbuf ++ chunk) = ⟨.incomplete, .none⟩) :
    exec (.raFeed chunk) s = .next ((s.setRbuf (s.rbuf ++ chunk)).respond ⟨.incomplete, .none⟩) := by
  rw [exec_raFeed, h, keptBytes, if_pos (classify_of_feedAnswer_incomplete h)]

/-- Settles O37, by induction on the chunks: the first answer of the run is the first feed's, so that feed kept its bytes,
and the remaining feeds go on from there. -/
theorem fedBytesKeepTheirOrder : Obligations.FedBytesKeepTheirOrder := by
  intro s t chunks
  induction chunks generalizing s with
  | nil =>
    intro hrun _
    obtain rfl : s = t := by simpa [runCommands] using hrun
    simp
  | cons chunk chunks ih =>
    intro hrun hresponses
    obtain ⟨u, hexec, hrest⟩ := runCommands_cons_next hrun
    have hanswer : feedAnswer (s.rbuf ++ chunk) = ⟨.incomplete, .none⟩ := by
      obtain ⟨answers, hanswers⟩ := runCommands_responses_prefix hrest
      obtain rfl : _ = u := by simpa only [exec_raFeed, Host.Outcome.next.injEq] using hexec
      have hboth := hanswers.trans hresponses
      simp only [respond_responses, setRbuf_responses, List.append_assoc, List.append_cancel_left_eq,
        List.length_cons, List.replicate_succ, List.singleton_append, List.cons.injEq] at hboth
      exact hboth.1
    obtain rfl : _ = u := by simpa only [exec_raFeed_of_incomplete hanswer, Host.Outcome.next.injEq] using hexec
    have ht := ih _ hrest (by simpa [List.replicate_succ] using hresponses)
    simpa [State.respond, State.setRbuf] using ht

/-- A command that writes neither register leaves the state with its answer, which depends on the registers alone. -/
theorem exec_eq_answered {i : Instr} (hcrc : writesCrc i = false) (hbuf : writesBuffer i = false) :
    ∃ answer : Word → List Byte → Response, ∀ s, exec i s = .next (s.answered (answer s.crc s.rbuf)) := by
  obtain ⟨⟨crc, rbuf, answer⟩, he, hexec⟩ := exec_eq_effect i
  obtain rfl : crc = id := he.keeps_crc hcrc
  obtain rfl : rbuf = id := he.keeps_rbuf hbuf
  exact ⟨answer, hexec⟩

/-- What `CRC_INIT` and `RA_RESET` write does not depend on the state, so a second time writes the same. -/
theorem crcInit_raReset_idempotent {i : Instr} {s t u : State} (hi : i = .crcInit ∨ i = .raReset)
    (ht : exec i s = .next t) (hu : exec i t = .next u) : u.crc = t.crc ∧ u.rbuf = t.rbuf := by
  obtain rfl | rfl := hi
  · obtain rfl := returnOk_next ht
    obtain rfl := returnOk_next hu
    exact ⟨rfl, rfl⟩
  · obtain rfl := returnOk_next ht
    obtain rfl := returnOk_next hu
    exact ⟨rfl, rfl⟩

/-- A malformed unit is taken and answered, and nothing else changes (30_encoding.md R74). -/
theorem step_of_malformed {s : State} {unit : List Byte} {rest : List Event} {e : Malformed}
    (hpending : s.pending = .command unit :: rest) (hdecode : decode unit = .error e) :
    step s = .next ({ s with pending := rest }.respond ⟨.illegalCommand, .none⟩) := by
  have hfetch : s.fetch = some (.command unit, { s with pending := rest }) := fetch_eq_some.mpr ⟨rest, hpending, rfl⟩
  simp only [step, hfetch, hdecode]
  rfl

/-- Settles O55. `CRC_UPDATE 0x11` twice and `RA_FEED {0x11}` twice, from reset, are the two that are not idempotent. -/
theorem sideEffectsAndIdempotency : Obligations.SideEffectsAndIdempotency := by
  refine ⟨?answersAgain, fun i s t u => crcInit_raReset_idempotent, ?crcUpdate, ?raFeed, ?malformed⟩
  case answersAgain =>
    intro i s hcrc hbuf
    obtain ⟨answer, hexec⟩ := exec_eq_answered hcrc hbuf
    exact ⟨answer s.crc s.rbuf, hexec s, hexec _⟩
  case crcUpdate => exact ⟨0x11, State.reset, _, _, rfl, rfl, by decide +kernel⟩
  case raFeed => exact ⟨[0x11], State.reset, _, _, rfl, rfl, by decide⟩
  case malformed =>
    rintro s t unit rest hpending ⟨e, hdecode⟩ hstep
    obtain rfl : _ = t := by simpa only [step_of_malformed hpending hdecode, Host.Outcome.next.injEq] using hstep
    exact ⟨rfl, rfl⟩

end Sys2Proof.Machine
end

section
/-! The decoder and the encoder of command units are inverse to each other (30_encoding.md R70, R71, R74). -/

namespace Sys2Proof

open Sys2Proof.Machine

/-- The operation, fixed operand bytes and tail of a well-formed command stand for that command. -/
theorem assemble_fixedBytes_tail {i : Instr} (h : i.wellFormed = true) :
    assemble i.op i.fixedBytes i.tail = .ok i := by
  cases i with
  | buildRequest fc start count =>
    simp [assemble, Instr.op, Instr.fixedBytes, wireBytes, be16_hi_lo]
  | extractWords addr fc bc payload =>
    have hlen : payload.length = bc.toNat := by simpa [Instr.wellFormed] using h
    simp [assemble, Instr.op, Instr.fixedBytes, Instr.tail, hlen]
  | _ => rfl

/-- A unit with the fixed operand bytes of its operation, and a tail only where that may be, stands for what `assemble`
makes of its parts. -/
theorem decode_toByte_cons {op : Op} {fixed tail : List Byte} (hfixed : fixed.length = op.fixedLen)
    (htail : op.takesTail = false → tail = []) :
    decode (op.toByte :: (fixed ++ tail)) = assemble op fixed tail := by
  have hlong : ¬ (fixed ++ tail).length < op.fixedLen := by simp [hfixed]
  have hnoTail : ¬ (op.takesTail = false ∧ op.fixedLen < (fixed ++ tail).length) := by
    rintro ⟨hop, hlt⟩
    simp [htail hop, hfixed] at hlt
  simp only [decode, ofByte_toByte, if_neg hlong, if_neg hnoTail, List.take_left' hfixed, List.drop_left' hfixed]

/-- Settles O45: the unit is cut back into the parts it was made of. -/
theorem decodeUndoesEncode : Obligations.DecodeUndoesEncode := by
  intro i h
  calc decode (encode i) = assemble i.op i.fixedBytes i.tail := decode_toByte_cons (fixedBytes_length i) tail_eq_nil
    _ = .ok i := assemble_fixedBytes_tail h

/-- What `assemble` makes of the parts of a unit is well formed and has those parts. -/
theorem assemble_ok {op : Op} {fixed tail : List Byte} {i : Instr} (hfixed : fixed.length = op.fixedLen)
    (htail : op.takesTail = false → tail = []) (h : assemble op fixed tail = .ok i) :
    i.op = op ∧ i.fixedBytes = fixed ∧ i.tail = tail ∧ i.wellFormed = true := by
  cases op with
  | crcInit | crcRead | raReset =>
    obtain rfl := List.eq_nil_of_length_eq_zero hfixed
    obtain rfl := htail rfl
    cases h
    exact ⟨rfl, rfl, rfl, rfl⟩
  | crcGen | crcAppend | crcCheck | parseResponse | raFeed =>
    obtain rfl := List.eq_nil_of_length_eq_zero hfixed
    cases h
    exact ⟨rfl, rfl, rfl, rfl⟩
  | crcUpdate =>
    obtain ⟨b, rfl⟩ := List.length_eq_one_iff.mp hfixed
    obtain rfl := htail rfl
    cases h
    exact ⟨rfl, rfl, rfl, rfl⟩
  | buildRequest =>
    obtain rfl := htail rfl
    match fixed, hfixed with
    | [fc, sh, sl, ch, cl], _ =>
      cases h
      exact ⟨rfl, by simp [Instr.fixedBytes, wireBytes, hi_be16, lo_be16], rfl, rfl⟩
  | extractWords =>
    match fixed, hfixed with
    | [addr, fc, bc], _ =>
      by_cases hlen : tail.length = bc.toNat
      · obtain rfl : _ = i := by simpa [assemble, hlen] using h
        exact ⟨rfl, rfl, rfl, by simpa [Instr.wellFormed] using hlen⟩
      · simp [assemble, hlen] at h

/-- A unit that decodes is an op byte, the fixed operand bytes and the tail of an operation. -/
theorem decode_ok {unit : List Byte} {i : Instr} (h : decode unit = .ok i) :
    ∃ op fixed tail, unit = op.toByte :: (fixed ++ tail) ∧ fixed.length = op.fixedLen ∧
      (op.takesTail = false → tail = []) ∧ assemble op fixed tail = .ok i := by
  unfold decode at h
  split at h
  · cases h
  next b body =>
    split at h
    · cases h
    next op hop =>
      split_ifs at h with hshort htail
      refine ⟨op, _, _, ?_, ?_, fun hop => ?_, h⟩
      · rw [toByte_of_ofByte hop, List.take_append_drop]
      · rw [List.length_take]; omega
      · exact List.drop_eq_nil_of_le (by by_contra; exact htail ⟨hop, by omega⟩)

/-- Settles O46: the parts the decoder found are the parts the encoder writes. -/
theorem decodedUnitsAreEncodings : Obligations.DecodedUnitsAreEncodings := by
  intro unit i h
  obtain ⟨op, fixed, tail, rfl, hfixed, htail, hassemble⟩ := decode_ok h
  obtain ⟨rfl, rfl, rfl, hwf⟩ := assemble_ok hfixed htail hassemble
  exact ⟨rfl, hwf⟩

/-- Settles O49: the encoder writes each example by evaluation, and decoding undoes encoding. -/
theorem encodingExamplesOfTheSpec : Obligations.EncodingExamplesOfTheSpec := by
  refine ⟨⟨?_, rfl⟩, ⟨?_, rfl⟩, ⟨?_, rfl⟩, ⟨?_, rfl⟩⟩
  · exact decodeUndoesEncode (.buildRequest 0x04 0x0000 0x0055) rfl
  · exact decodeUndoesEncode (.raFeed [0x11, 0x04]) rfl
  · exact decodeUndoesEncode (.crcUpdate 0x11) rfl
  · exact decodeUndoesEncode (.extractWords 0x11 0x04 0x04 [0x01, 0x7E, 0x00, 0x0A]) rfl

end Sys2Proof
end

section
/-! The malformed units (30_encoding.md R74), as the four cases of the rule. -/

namespace Sys2Proof

open Sys2Proof.Machine

/-- R74 (d) is the one check left once a unit is cut into its parts. -/
theorem assemble_error_iff {op : Op} {fixed tail : List Byte} :
    (∃ e, assemble op fixed tail = .error e) ↔ op = .extractWords ∧ tail.length ≠ (byteAt fixed 2).toNat := by
  cases op with
  | extractWords => by_cases h : tail.length = (byteAt fixed 2).toNat <;> simp [assemble, h]
  | _ => simp [assemble]

theorem byteAt_take {s : List Byte} {n i : Nat} (h : i < n) : byteAt (s.take n) i = byteAt s i := by
  simp [byteAt, List.getD_eq_getElem?_getD, h]

/-- A unit with an assigned op byte is malformed by R74 (b), (c) or (d). -/
theorem decode_error_iff {op : Op} {body : List Byte} : (∃ e, decode (op.toByte :: body) = .error e) ↔
    body.length < op.fixedLen ∨ (op.takesTail = false ∧ op.fixedLen < body.length) ∨
    (op = .extractWords ∧ 3 ≤ body.length ∧ body.length - 3 ≠ (byteAt body 2).toNat) := by
  simp only [decode, ofByte_toByte]
  split_ifs with hshort htail
  · simp [hshort]
  · simp [htail]
  · simp only [hshort, htail, assemble_error_iff, List.length_drop, false_or]
    refine and_congr_right ?_
    rintro rfl
    have hlong : 3 ≤ body.length := Nat.le_of_not_lt hshort
    simp [Op.fixedLen, byteAt_take, hlong]

/-- The op bytes R71 assigns. -/
theorem ofByte_eq_none_iff {b : Byte} : Op.ofByte b = none ↔
    b ∉ [0x01, 0x02, 0x03, 0x04, 0x05, 0x06, 0x10, 0x11, 0x12, 0x20, 0x21] := by
  revert b
  decide

/-- Settles O47: an unassigned op byte is (a), and an assigned one leaves (b), (c) and (d), operation by operation. -/
theorem malformedUnitsAreAnsweredIllegal : Obligations.MalformedUnitsAreAnsweredIllegal := by
  constructor
  · intro unit
    match unit with
    | [] => exact iff_of_true ⟨_, rfl⟩ trivial
    | b :: body =>
      cases hop : Op.ofByte b with
      | none => exact iff_of_true ⟨.unassignedOp b, by simp only [decode, hop]⟩ (.inl (ofByte_eq_none_iff.mp hop))
      | some op =>
        obtain rfl := toByte_of_ofByte hop
        rw [decode_error_iff]
        cases op <;> simp [Op.toByte, Op.fixedLen, Op.takesTail, List.length_pos_iff]
  · rintro s unit rest hpending ⟨e, hdecode⟩
    exact ⟨⟨.illegalCommand, .none⟩, rfl, step_of_malformed hpending hdecode⟩

end Sys2Proof
end

section
/-! Delivered units and the commands they encode (30_encoding.md R60, R70; log entry 2). -/

namespace Sys2Proof.Machine

/-- A command does not see what is still to be performed. -/
theorem exec_with_pending {i : Instr} {s t : State} (h : exec i s = .next t) (p : List Event) :
    exec i { s with pending := p } = .next { t with pending := p } := by
  obtain ⟨e, -, hexec⟩ := exec_eq_effect i
  obtain rfl : e.apply s = t := by simpa [hexec] using h
  exact hexec _

/-- As many steps as there are delivered commands perform them, whatever else the state holds. -/
theorem run_of_pending (program : List Instr) (hwf : ∀ i ∈ program, i.wellFormed = true) (s : State)
    (hpending : s.pending = []) :
    core.run program.length { s with pending := (program.map encode).map .command } = runCommands program s := by
  induction program generalizing s with
  | nil =>
    obtain ⟨crc, rbuf, pending, responses⟩ := s
    obtain rfl : pending = [] := hpending
    rfl
  | cons i rest ih =>
    rw [List.forall_mem_cons] at hwf
    obtain ⟨t, -, hexec, -⟩ := exec_answers i s
    have hstep : step { s with pending := ((i :: rest).map encode).map .command } =
        .next { t with pending := (rest.map encode).map .command } :=
      (stepRunsTheDecodedCommand _ _ _ i rfl (decodeUndoesEncode i hwf.1)).trans (exec_with_pending hexec _)
    have hrest := ih hwf.2 t ((exec_pending hexec).trans hpending)
    simp only [runCommands, hexec, ← hrest]
    simp only [List.length_cons, Host.Core.run, core, hstep]

/-- Settles O58: the issued units are all that is pending. -/
theorem byteInterfacePerformsTheCommands : Obligations.ByteInterfacePerformsTheCommands := by
  intro program s hpending hwf
  have hissue : s.issue (program.map encode) = { s with pending := (program.map encode).map .command } := by
    simp [State.issue, hpending]
  rw [hissue]
  exact run_of_pending program hwf s hpending

end Sys2Proof.Machine
end

section
/-! Responses: their bytes (30_encoding.md R72) and the statuses each command can be answered with (R73). -/

namespace Sys2Proof.Machine

/-- Settles O50: the words go out one after the other, every other kind of output as the table writes it. -/
theorem responsesOnTheWire : Obligations.ResponsesOnTheWire := by
  refine ⟨fun _ => rfl, fun _ => rfl, fun _ => rfl, fun _ => rfl, fun _ => rfl, rfl, fun ws w => ?words, fun _ => rfl⟩
  case words => simp [Response.toBytes, Outputs.toBytes, wireBytes]

/-- Settles O28: such a term is refused. -/
theorem mismatchedPayloadIsIllegal : Obligations.MismatchedPayloadIsIllegal := by
  intro s addr fc bc payload h
  simp only [exec, execExtractWords, if_pos h]
  rfl

theorem buildRequest_error {fc start count : Nat} {e : Status} (h : buildRequest fc start count = .error e) :
    e = .invalidArgument := by
  unfold buildRequest at h
  split_ifs at h <;> simp_all

theorem parseResponse_error {raw : List Byte} {e : Status} (h : parseResponse raw = .error e) :
    e ∈ [.frameTooShort, .crcMismatch, .unexpectedDeviceAddress] := by
  simp only [parseResponse] at h
  split_ifs at h <;> simp_all

theorem extractWords_error {fc bc : Byte} {payload : List Byte} {e : Status}
    (h : extractWords fc bc payload = .error e) : e ∈ [.unsupportedFunction, .oddByteCount] := by
  unfold extractWords at h
  split_ifs at h <;> simp_all

/-- An operation that writes no state answers `OK`, or an error it raises. -/
theorem settle_map_status {α : Type} {result : Except Status α} {f : α → Outputs} {errors : List Status} {s t : State}
    (herrors : ∀ e, result = .error e → e ∈ errors) (h : settle (result.map f) s = .next t) :
    ∃ r, t.responses = s.responses ++ [r] ∧ r.status ∈ .ok :: errors := by
  cases result with
  | ok a => exact ⟨_, congrArg State.responses (returnOk_next h), List.mem_cons_self⟩
  | error e => exact ⟨_, congrArg State.responses (raise_next h), List.mem_cons_of_mem _ (herrors e rfl)⟩

/-- A feed answers one of the reassembly results. -/
theorem feedAnswer_status (t : List Byte) : (feedAnswer t).status ∈ [.incomplete, .complete, .overflow] := by
  unfold feedAnswer
  split <;> simp

/-- A well-formed command gives one response more, with one of the statuses allowed to it. -/
theorem exec_status {i : Instr} {s t : State} (hwf : i.wellFormed = true) (h : exec i s = .next t) :
    ∃ r, t.responses = s.responses ++ [r] ∧ r.status ∈ allowedStatuses i := by
  cases i with
  | crcInit | crcUpdate | crcRead | crcGen | crcAppend | crcCheck | raReset =>
    exact ⟨_, congrArg State.responses (returnOk_next h), List.mem_cons_self⟩
  | buildRequest => exact settle_map_status (fun e he => List.mem_singleton.mpr (buildRequest_error he)) h
  | parseResponse => exact settle_map_status (fun e => parseResponse_error) h
  | extractWords addr fc bc payload =>
    have hlen : payload.length = bc.toNat := by simpa [Instr.wellFormed] using hwf
    simp only [exec, execExtractWords, hlen, ne_eq, not_true_eq_false, if_false] at h
    exact settle_map_status (fun e => extractWords_error) h
  | raFeed chunk =>
    obtain rfl : _ = t := by simpa only [exec_raFeed, Host.Outcome.next.injEq] using h
    exact ⟨_, rfl, feedAnswer_status _⟩

/-- Settles O51: the one response of a well-formed command is the one with an allowed status. -/
theorem statusesAndWhoRaisesThem : Obligations.StatusesAndWhoRaisesThem := by
  refine ⟨rfl, fun i s t r hwf h hr => ?_⟩
  obtain ⟨r', hr', hstatus⟩ := exec_status hwf h
  obtain rfl : r' = r := by simpa [hr'] using hr
  exact hstatus

end Sys2Proof.Machine
end

section
/-! The assembly notation (30_encoding.md R76, R77): the parts of a printed line, and what the reader makes of each. -/

namespace Sys2Proof.Machine

/-! ### Numbers -/

/-- A character that stands for itself within a line: no blank, no separator, no beginning of a comment. -/
def isPlain (c : Char) : Bool := !isBlank c && c != ',' && c != ';'

theorem isPlain_iff {c : Char} : isPlain c = true ↔ isBlank c = false ∧ c ≠ ',' ∧ c ≠ ';' := by
  simp [isPlain, and_assoc]

theorem hexDigit_facts : ∀ d < 16, hexValue (hexDigit d) = some d ∧ isPlain (hexDigit d) = true := by
  decide

theorem isPlain_of_mem_hexDigits {n v : Nat} {c : Char} (h : c ∈ hexDigits n v) : isPlain c = true := by
  induction n generalizing v with
  | zero => cases h
  | succ n ih =>
    obtain h | h := List.mem_append.mp h
    · exact ih h
    · obtain rfl := List.mem_singleton.mp h
      exact (hexDigit_facts _ (Nat.mod_lt v (by decide))).2

@[simp] theorem hexDigits_length (n v : Nat) : (hexDigits n v).length = n := by
  induction n generalizing v with
  | zero => rfl
  | succ n ih => simp [hexDigits, ih]

theorem readHex_append (acc : Nat) (a b : List Char) :
    readHex acc (a ++ b) = (readHex acc a).bind fun v => readHex v b := by
  induction a generalizing acc with
  | nil => rfl
  | cons c a ih =>
    simp only [List.cons_append, readHex]
    cases hexValue c with
    | none => rfl
    | some d => exact ih _

/-- The digits printed of a number that fits in them are read as that number, after the digits already read. -/
theorem readHex_hexDigits {n v : Nat} (acc : Nat) (h : v < 16 ^ n) :
    readHex acc (hexDigits n v) = some (acc * 16 ^ n + v) := by
  induction n generalizing v with
  | zero => simpa [readHex, hexDigits] using h
  | succ n ih =>
    have hfit : v / 16 < 16 ^ n := Nat.div_lt_of_lt_mul (by rwa [mul_comm, ← pow_succ])
    rw [hexDigits, readHex_append, ih hfit, Option.bind_some, readHex,
      (hexDigit_facts _ (Nat.mod_lt v (by decide))).1]
    simp only [readHex, Option.some.injEq, pow_succ]
    rw [add_mul, add_assoc, Nat.div_add_mod' v 16, mul_assoc]

theorem readNumber_printNumber {n v : Nat} (hn : n ≠ 0) (h : v < 16 ^ n) :
    readNumber (16 ^ n) (printNumber n v) = some v := by
  have hread := readHex_hexDigits 0 h
  match hdigits : hexDigits n v with
  | [] => exact absurd (by simpa [hdigits] using hexDigits_length n v) hn.symm
  | c :: digits =>
    rw [hdigits] at hread
    simp [printNumber, hdigits, readNumber, hread, h]

@[simp] theorem readByte_printNumber (b : Byte) : readByte (printNumber 2 b.toNat) = some b := by
  have hread : readNumber 256 (printNumber 2 b.toNat) = some b.toNat := readNumber_printNumber two_ne_zero b.isLt
  simp [readByte, hread]

@[simp] theorem readWord_printNumber (v : Word) : readWord (printNumber 4 v.toNat) = some v := by
  have hread : readNumber 65536 (printNumber 4 v.toNat) = some v.toNat := readNumber_printNumber four_ne_zero v.isLt
  simp [readWord, hread]

/-! ### Cutting a text at its separators -/

theorem cut_of_forall_not {p : Char → Bool} {text : List Char} (h : ∀ c ∈ text, p c = false) :
    cut p text = [text] := by
  induction text with
  | nil => rfl
  | cons c rest ih =>
    rw [List.forall_mem_cons] at h
    simp [cut, h.1, ih h.2]

theorem cut_append_cons {p : Char → Bool} {piece rest : List Char} {sep : Char} (h : ∀ c ∈ piece, p c = false)
    (hsep : p sep = true) : cut p (piece ++ sep :: rest) = piece :: cut p rest := by
  induction piece with
  | nil => simp [cut, hsep]
  | cons c piece ih =>
    rw [List.forall_mem_cons] at h
    simp [cut, h.1, ih h.2]

theorem cut_ne_nil (p : Char → Bool) (text : List Char) : cut p text ≠ [] := by
  cases text with
  | nil => simp [cut]
  | cons c rest =>
    unfold cut
    split_ifs
    · simp
    · split <;> simp

/-! ### Byte sequences -/

theorem cut_intersperse_blank {pieces : List (List Char)} (hne : pieces ≠ [])
    (h : ∀ piece ∈ pieces, ∀ c ∈ piece, isBlank c = false) :
    cut isBlank (pieces.intersperse [' ']).flatten = pieces := by
  induction pieces with
  | nil => contradiction
  | cons piece rest ih =>
    rw [List.forall_mem_cons] at h
    cases rest with
    | nil => simpa using cut_of_forall_not h.1
    | cons next rest =>
      have hrest := ih (by simp) h.2
      have hcut := cut_append_cons (rest := ((next :: rest).intersperse [' ']).flatten) h.1 (sep := ' ') rfl
      simpa [hrest] using hcut

/-- The pieces between the braces are the printed bytes; the empty sequence has one empty piece, which is dropped. -/
theorem sequence_pieces (bs : List Byte) :
    (cut isBlank ((bs.map fun b => hexDigits 2 b.toNat).intersperse [' ']).flatten).filter (· ≠ []) =
      bs.map fun b => hexDigits 2 b.toNat := by
  cases bs with
  | nil => rfl
  | cons b bs =>
    rw [cut_intersperse_blank (by simp)]
    · rw [List.filter_eq_self]
      intro piece hpiece
      obtain ⟨b, -, rfl⟩ := List.mem_map.mp hpiece
      simp [← List.length_pos_iff]
    · intro piece hpiece c hc
      obtain ⟨b, -, rfl⟩ := List.mem_map.mp hpiece
      exact (isPlain_iff.mp (isPlain_of_mem_hexDigits hc)).1

theorem readPairs_hexDigits (bs : List Byte) : readPairs (bs.map fun b => hexDigits 2 b.toNat) = some bs := by
  induction bs with
  | nil => rfl
  | cons b bs ih =>
    have hread : readHex 0 (hexDigits 2 b.toNat) = some b.toNat := by
      simpa using readHex_hexDigits (n := 2) 0 b.isLt
    simp only [hexDigits, List.nil_append, List.cons_append] at hread ih
    simp [hexDigits, readPairs, hread, ih]

@[simp] theorem readSequence_printSequence (bs : List Byte) : readSequence (printSequence bs) = some bs := by
  have hpieces := sequence_pieces bs
  simp only [printSequence, readSequence, List.cons_append, List.getLast?_concat, List.dropLast_concat, and_self, if_true]
  rw [hpieces, readPairs_hexDigits]

/-! ### Operand texts -/

/-- A text that begins and ends with characters that are no blanks. -/
structure Trimmed (text : List Char) : Prop where
  ne_nil : text ≠ []
  head : ∀ c ∈ text.head?, isBlank c = false
  last : ∀ c ∈ text.getLast?, isBlank c = false

theorem Trimmed.of_forall {text : List Char} (hne : text ≠ []) (h : ∀ c ∈ text, isBlank c = false) : Trimmed text :=
  ⟨hne, fun c hc => h c (List.mem_of_mem_head? hc), fun c hc => h c (List.mem_of_mem_getLast? hc)⟩

theorem Trimmed.singleton {c : Char} (h : isBlank c = false) : Trimmed [c] :=
  .of_forall (List.cons_ne_nil c []) (List.forall_mem_singleton.mpr h)

theorem Trimmed.append {a b : List Char} (ha : Trimmed a) (sep : List Char) (hb : Trimmed b) :
    Trimmed (a ++ (sep ++ b)) where
  ne_nil := by simp [ha.ne_nil]
  head := by simpa [List.head?_append_of_ne_nil _ ha.ne_nil] using ha.head
  last := by simpa [← List.append_assoc, List.getLast?_append_of_ne_nil _ hb.ne_nil] using hb.last

theorem dropWhile_isBlank_of_head {text : List Char} (h : ∀ c ∈ text.head?, isBlank c = false) :
    text.dropWhile isBlank = text := by
  cases text with
  | nil => rfl
  | cons c rest => simp [h c rfl]

theorem trim_of_trimmed {text : List Char} (h : Trimmed text) : trim text = text := by
  have hlast : text.reverse.dropWhile isBlank = text.reverse :=
    dropWhile_isBlank_of_head (by simpa using h.last)
  rw [trim, dropWhile_isBlank_of_head h.head, hlast, List.reverse_reverse]

theorem trim_blank_cons {c : Char} (hc : isBlank c = true) (text : List Char) : trim (c :: text) = trim text := by
  simp [trim, hc]

/-- What the printer writes for one operand: a trimmed text without separators and comment signs. -/
structure IsOperand (text : List Char) : Prop where
  trimmed : Trimmed text
  noComma : ∀ c ∈ text, (c == ',') = false
  noComment : ';' ∉ text

theorem isOperand_printNumber (n v : Nat) : IsOperand (printNumber n v) := by
  have hplain : ∀ c ∈ printNumber n v, isBlank c = false ∧ c ≠ ',' ∧ c ≠ ';' := by
    simp only [printNumber, List.forall_mem_cons]
    exact ⟨by decide, by decide, fun c hc => isPlain_iff.mp (isPlain_of_mem_hexDigits hc)⟩
  exact ⟨.of_forall (by simp [printNumber]) fun c hc => (hplain c hc).1, fun c hc => by simp [(hplain c hc).2.1],
    fun hc => (hplain _ hc).2.2 rfl⟩

theorem forall_mem_flatten_intersperse {P : Char → Prop} {pieces : List (List Char)} {sep : List Char}
    (hsep : ∀ c ∈ sep, P c) (h : ∀ piece ∈ pieces, ∀ c ∈ piece, P c) : ∀ c ∈ (pieces.intersperse sep).flatten, P c := by
  induction pieces with
  | nil => simp
  | cons piece rest ih =>
    rw [List.forall_mem_cons] at h
    cases rest with
    | nil => simpa using h.1
    | cons next rest =>
      rw [List.intersperse_cons_cons, List.flatten_cons, List.flatten_cons, List.forall_mem_append,
        List.forall_mem_append]
      exact ⟨h.1, hsep, ih h.2⟩

theorem isOperand_printSequence (bs : List Byte) : IsOperand (printSequence bs) := by
  have hinside : ∀ c ∈ ((bs.map fun b => hexDigits 2 b.toNat).intersperse [' ']).flatten, c ≠ ',' ∧ c ≠ ';' := by
    refine forall_mem_flatten_intersperse (by simp) ?_
    rw [List.forall_mem_map]
    exact fun b _ c hc => (isPlain_iff.mp (isPlain_of_mem_hexDigits hc)).2
  have hmem : ∀ c ∈ printSequence bs, c ≠ ',' ∧ c ≠ ';' := by
    simp only [printSequence, List.forall_mem_append, List.forall_mem_cons]
    exact ⟨⟨by decide, hinside⟩, by decide, List.forall_mem_nil _⟩
  have htrimmed : Trimmed (printSequence bs) :=
    (Trimmed.singleton (c := openBrace) rfl).append _ (.singleton (c := closeBrace) rfl)
  exact ⟨htrimmed, fun c hc => by simp [(hmem c hc).1], fun hc => (hmem _ hc).2 rfl⟩

theorem isOperand_of_mem_printOperands (i : Instr) : ∀ text ∈ printOperands i, IsOperand text := by
  cases i <;> simp [printOperands, isOperand_printNumber, isOperand_printSequence]

/-! ### Lines -/

/-- Operand texts as they stand in a line, separated by commas (30_encoding.md R76). -/
def joinOperands (operands : List (List Char)) : List Char := (operands.intersperse [',', ' ']).flatten

/-- A line: a name and its operand texts. -/
def commandLine (name : List Char) (operands : List (List Char)) : List Char :=
  if operands = [] then name else name ++ ' ' :: joinOperands operands

theorem printLine_eq_commandLine (i : Instr) : printLine i = commandLine (mnemonicOf i.op) (printOperands i) := by
  cases i <;> rfl

theorem joinOperands_cons_cons (text next : List Char) (rest : List (List Char)) :
    joinOperands (text :: next :: rest) = text ++ ([',', ' '] ++ joinOperands (next :: rest)) := by
  simp [joinOperands]

theorem trimmed_joinOperands {operands : List (List Char)} (hne : operands ≠ [])
    (h : ∀ text ∈ operands, IsOperand text) : Trimmed (joinOperands operands) := by
  induction operands with
  | nil => contradiction
  | cons text rest ih =>
    rw [List.forall_mem_cons] at h
    cases rest with
    | nil => simpa [joinOperands] using h.1.trimmed
    | cons next rest =>
      rw [joinOperands_cons_cons]
      exact h.1.trimmed.append _ (ih (by simp) h.2)

/-- A blank at the beginning of a text goes to its first piece, and is trimmed away there. -/
theorem map_trim_cut_blank_cons {p : Char → Bool} {c : Char} (hp : p c = false) (hc : isBlank c = true)
    (text : List Char) : (cut p (c :: text)).map trim = (cut p text).map trim := by
  match hcut : cut p text with
  | [] => exact absurd hcut (cut_ne_nil p text)
  | piece :: pieces => simp [cut, hp, hcut, trim_blank_cons hc]

theorem map_trim_cut_joinOperands {operands : List (List Char)} (hne : operands ≠ [])
    (h : ∀ text ∈ operands, IsOperand text) : (cut (· == ',') (joinOperands operands)).map trim = operands := by
  induction operands with
  | nil => contradiction
  | cons text rest ih =>
    rw [List.forall_mem_cons] at h
    cases rest with
    | nil => simp [joinOperands, cut_of_forall_not h.1.noComma, trim_of_trimmed h.1.trimmed]
    | cons next rest =>
      rw [joinOperands_cons_cons, List.cons_append, cut_append_cons h.1.noComma rfl, List.map_cons,
        trim_of_trimmed h.1.trimmed, List.singleton_append, map_trim_cut_blank_cons rfl rfl, ih (by simp) h.2]

section
variable {name : List Char} {operands : List (List Char)}
  (hne : name ≠ []) (hname : name.all isPlain = true) (hoperands : ∀ text ∈ operands, IsOperand text)

include hname in
theorem plain_of_mem_name {c : Char} (hc : c ∈ name) : isBlank c = false ∧ c ≠ ',' ∧ c ≠ ';' :=
  isPlain_iff.mp (List.all_eq_true.mp hname c hc)

include hname hoperands in
/-- A printed line has no comment. -/
theorem takeWhile_comment_commandLine : (commandLine name operands).takeWhile (· ≠ ';') = commandLine name operands := by
  have hnameChars : ∀ c ∈ name, c ≠ ';' := fun c hc => (plain_of_mem_name hname hc).2.2
  have hjoin : ∀ c ∈ joinOperands operands, c ≠ ';' :=
    forall_mem_flatten_intersperse (by simp) fun text ht c hc hsemi => (hoperands text ht).noComment (hsemi ▸ hc)
  rw [List.takeWhile_eq_self_iff]
  unfold commandLine
  split_ifs
  · simpa using hnameChars
  · simpa [or_imp, forall_and] using ⟨hnameChars, hjoin⟩

include hne hname hoperands in
theorem trim_commandLine : trim (commandLine name operands) = commandLine name operands := by
  have htrimmed : Trimmed name := .of_forall hne fun c hc => (plain_of_mem_name hname hc).1
  unfold commandLine
  split_ifs with hnone
  · exact trim_of_trimmed htrimmed
  · exact trim_of_trimmed (htrimmed.append [' '] (trimmed_joinOperands hnone hoperands))

include hname in
/-- The name ends at the first blank. -/
theorem takeWhile_blank_commandLine : (commandLine name operands).takeWhile (fun c => !isBlank c) = name := by
  have hsolid : ∀ c ∈ name, (!isBlank c) = true := fun c hc => by simp [(plain_of_mem_name hname hc).1]
  unfold commandLine
  split_ifs
  · exact List.takeWhile_eq_self_iff.mpr hsolid
  · rw [List.takeWhile_append_of_pos hsolid]
    simp [isBlank]

include hoperands in
/-- What follows the name is cut into the operand texts. -/
theorem trim_drop_commandLine : trim ((commandLine name operands).drop name.length) = joinOperands operands := by
  unfold commandLine
  split_ifs with hnone
  · rw [hnone, List.drop_length]
    rfl
  · rw [List.drop_left, trim_blank_cons rfl, trim_of_trimmed (trimmed_joinOperands hnone hoperands)]

include hoperands in
theorem operands_of_joinOperands :
    (if joinOperands operands = [] then [] else (cut (· == ',') (joinOperands operands)).map trim) = operands := by
  by_cases hnone : operands = []
  · rw [hnone]
    rfl
  · rw [if_neg (trimmed_joinOperands hnone hoperands).ne_nil, map_trim_cut_joinOperands hnone hoperands]

include hne in
theorem commandLine_ne_nil : commandLine name operands ≠ [] := by
  unfold commandLine
  split_ifs <;> simp [hne]

end

theorem mnemonicOf_facts (op : Op) : mnemonicOf op ≠ [] ∧ (mnemonicOf op).all isPlain = true ∧
    mnemonicOf op ≠ crcStreamName ∧ allOps.find? (fun o => mnemonicOf o == mnemonicOf op) = some op := by
  cases op <;> decide

/-- A line that begins with a mnemonic is read as its operands say. -/
theorem readLine_mnemonic (op : Op) {operands : List (List Char)} (h : ∀ text ∈ operands, IsOperand text) :
    readLine (commandLine (mnemonicOf op) operands) = (readOperands op operands).map fun i => [i] := by
  obtain ⟨hne, hplain, hstream, hfind⟩ := mnemonicOf_facts op
  simp only [readLine, takeWhile_comment_commandLine hplain h, trim_commandLine hne hplain h,
    takeWhile_blank_commandLine hplain, trim_drop_commandLine h, operands_of_joinOperands h, hfind,
    if_neg (commandLine_ne_nil hne), if_neg hstream]

theorem readLine_crcStream {text : List Char} (h : IsOperand text) :
    readLine (commandLine crcStreamName [text]) = (readSequence text).map crcStream := by
  have hne : crcStreamName ≠ [] := by decide
  have hplain : crcStreamName.all isPlain = true := by decide
  have hoperands : ∀ operand ∈ [text], IsOperand operand := by simpa using h
  simp only [readLine, takeWhile_comment_commandLine hplain hoperands, trim_commandLine hne hplain hoperands,
    takeWhile_blank_commandLine hplain, trim_drop_commandLine hoperands, operands_of_joinOperands hoperands,
    if_neg (commandLine_ne_nil hne), if_true]

/-- The printed operands of a well-formed command are read as that command. -/
theorem readOperands_printOperands {i : Instr} (h : i.wellFormed = true) :
    readOperands i.op (printOperands i) = some i := by
  cases i with
  | extractWords addr fc bc payload =>
    have hlen : payload.length = bc.toNat := by simpa [Instr.wellFormed] using h
    simp [readOperands, Instr.op, printOperands, hlen, bc.isLt]
  | _ => simp [readOperands, Instr.op, printOperands]

/-- Settles O59: a printed line is its mnemonic and its operands, and each of them reads back. -/
theorem assemblyLinesReadBack : Obligations.AssemblyLinesReadBack := by
  constructor
  · intro i h
    rw [printLine_eq_commandLine, readLine_mnemonic i.op (isOperand_of_mem_printOperands i),
      readOperands_printOperands h]
    rfl
  · intro data
    have hline : crcStreamName ++ ' ' :: printSequence data = commandLine crcStreamName [printSequence data] := by
      simp [commandLine, joinOperands]
    rw [hline, readLine_crcStream (isOperand_printSequence data), readSequence_printSequence]
    rfl

end Sys2Proof.Machine
end

section
/-! The loop of 40_crc.md R100 as a linear map: it distributes over XOR, it is injective, and zero bits at the low end only
move the others down. The table form of the update follows, and that a sequence with one byte changed has another CRC. -/

namespace Sys2Proof.Machine

/-- What one turn of the loop XORs into the shifted register, by the bit shifted out. -/
def crcFeedback (bit : Bool) : Word := if bit then Config.crcPoly else 0

theorem crcFeedback_xor (a b : Bool) : crcFeedback (a ^^ b) = crcFeedback a ^^^ crcFeedback b := by
  cases a <;> cases b <;> rfl

theorem crcShift_eq_xor_feedback (c : Word) : crcShift c = (c >>> 1) ^^^ crcFeedback (c.getLsbD 0) := by
  cases h : c.getLsbD 0 with
  | false => simp [crcShift_of_even h, crcFeedback]
  | true => simp [crcShift_of_odd h, crcFeedback]

theorem crcShift_xor (a b : Word) : crcShift (a ^^^ b) = crcShift a ^^^ crcShift b := by
  simp only [crcShift_eq_xor_feedback, BitVec.getLsbD_xor, crcFeedback_xor, BitVec.ushiftRight_xor_distrib]
  ac_rfl

theorem crcShifts_xor (n : Nat) (a b : Word) : crcShifts n (a ^^^ b) = crcShifts n a ^^^ crcShifts n b := by
  induction n generalizing a b with
  | zero => rfl
  | succ n ih => simp only [crcShifts_succ, crcShift_xor, ih]

/-- A turn brings the bit shifted out back as bit 15, since 0xA001 has that bit and the shifted register has not. -/
theorem getLsbD_15_crcShift (c : Word) : (crcShift c).getLsbD 15 = c.getLsbD 0 := by
  have hfeedback : ∀ bit, (crcFeedback bit).getLsbD 15 = bit := by decide
  rw [crcShift_eq_xor_feedback, BitVec.getLsbD_xor, hfeedback]
  simp

theorem eq_zero_of_crcShift_eq_zero {c : Word} (h : crcShift c = 0) : c = 0 := by
  have hlow : c.getLsbD 0 = false := by rw [← getLsbD_15_crcShift, h]; rfl
  rw [crcShift_of_even hlow] at h
  refine BitVec.eq_of_getLsbD_eq fun i hi => ?_
  cases i with
  | zero => exact hlow
  | succ i => simpa [Nat.add_comm] using congrArg (·.getLsbD i) h

theorem eq_zero_of_crcShifts_eq_zero {n : Nat} {c : Word} (h : crcShifts n c = 0) : c = 0 := by
  induction n generalizing c with
  | zero => exact h
  | succ n ih => exact eq_zero_of_crcShift_eq_zero (ih h)

theorem crcShifts_inj {n : Nat} {a b : Word} : crcShifts n a = crcShifts n b ↔ a = b := by
  refine ⟨fun h => ?_, congrArg _⟩
  have hdiff : crcShifts n (a ^^^ b) = 0 := by rw [crcShifts_xor, h, BitVec.xor_self]; rfl
  exact BitVec.xor_eq_zero_iff.mp (eq_zero_of_crcShifts_eq_zero hdiff)

/-- As long as the bits shifted out are zero, the turns only shift. -/
theorem crcShifts_of_low_zero {n : Nat} {c : Word} (h : ∀ i < n, c.getLsbD i = false) : crcShifts n c = c >>> n := by
  induction n generalizing c with
  | zero => simp
  | succ n ih =>
    have hshifted : ∀ i < n, (c >>> 1).getLsbD i = false := fun i hi => by
      simpa [Nat.add_comm] using h (i + 1) (by omega)
    rw [crcShifts_succ, crcShift_of_even (h 0 n.succ_pos), ih hshifted, ← BitVec.shiftRight_add, Nat.add_comm]

theorem crcShifts_eq_iterate (n : Nat) (c : Word) : crcShifts n c = crcShift^[n] c := by
  induction n generalizing c with
  | zero => rfl
  | succ n ih => exact ih _

/-- The byte that enters meets the low byte of the register, and the high byte stays apart. -/
theorem xor_byte_eq (c : Word) (b : Byte) :
    c ^^^ b.setWidth 16 = ((c >>> 8) <<< 8) ^^^ (0 ^^^ (lo c ^^^ b).setWidth 16) := by
  refine BitVec.eq_of_getLsbD_eq fun i hi => ?_
  by_cases hlow : i < 8
  · simp [lo, hi, hlow]
  · simp [lo, hi, hlow, show 8 + (i - 8) = i by omega]

/-- Settles O6: the turns distribute over the two parts of the register, and shift the high one down. -/
theorem crcUpdateSplitsIntoByteTable : Obligations.CrcUpdateSplitsIntoByteTable := by
  intro c b
  have hhigh : crcShifts 8 ((c >>> 8) <<< 8) = c >>> 8 := by
    rw [crcShifts_of_low_zero (fun i hi => by simp [hi])]
    refine BitVec.eq_of_getLsbD_eq fun i _ => ?_
    by_cases hlow : 8 + i < 16
    · simp [hlow]
    · simp [hlow, BitVec.getLsbD_of_ge c (8 + i) (by omega)]
  calc crcUpdate c b = crcShifts 8 (((c >>> 8) <<< 8) ^^^ (0 ^^^ (lo c ^^^ b).setWidth 16)) := by
        rw [crcUpdate, xor_byte_eq]
    _ = (c >>> 8) ^^^ crcUpdate 0 (lo c ^^^ b) := by rw [crcShifts_xor, hhigh, crcUpdate]

theorem crcUpdate_left_inj {c d : Word} {b : Byte} : crcUpdate c b = crcUpdate d b ↔ c = d := by
  simp only [crcUpdate, crcShifts_inj, BitVec.xor_left_inj]

theorem crcUpdate_right_inj {c : Word} {a b : Byte} : crcUpdate c a = crcUpdate c b ↔ a = b := by
  rw [crcUpdate, crcUpdate, crcShifts_inj, BitVec.xor_right_inj]
  exact ⟨fun h => by simpa using congrArg (BitVec.setWidth 8) h, congrArg _⟩

theorem foldl_crcUpdate_inj {c d : Word} (s : List Byte) : s.foldl crcUpdate c = s.foldl crcUpdate d ↔ c = d := by
  induction s generalizing c d with
  | nil => rfl
  | cons b s ih => exact ih.trans crcUpdate_left_inj

/-- One changed byte changes the result of the fold, from any start. -/
theorem foldl_crcUpdate_set_ne {s : List Byte} {i : Nat} {b : Byte} (c : Word) (hi : i < s.length)
    (hb : b ≠ byteAt s i) : (s.set i b).foldl crcUpdate c ≠ s.foldl crcUpdate c := by
  induction s generalizing c i with
  | nil => cases hi
  | cons a s ih =>
    cases i with
    | zero => exact fun h => hb (crcUpdate_right_inj.mp ((foldl_crcUpdate_inj s).mp h))
    | succ i => exact ih _ (Nat.lt_of_succ_lt_succ hi) (by simpa using hb)

theorem crc16_set_ne {s : List Byte} {i : Nat} {b : Byte} (hi : i < s.length) (hb : b ≠ byteAt s i) :
    crc16 (s.set i b) ≠ crc16 s :=
  foldl_crcUpdate_set_ne _ hi hb

theorem crc16_append (s t : List Byte) : crc16 (s ++ t) = t.foldl crcUpdate (crc16 s) := List.foldl_append

/-- Settles O4: the model's turns are iterations of its one turn. -/
theorem crcUpdateRunsTheReflectedBitLoop : Obligations.CrcUpdateRunsTheReflectedBitLoop :=
  ⟨fun _ _ => crcShifts_eq_iterate 8 _, by decide +kernel⟩

/-- Settles O5: the fold takes the bytes in order; the examples evaluate. -/
theorem crc16FoldsBytesFromFFFF : Obligations.Crc16FoldsBytesFromFFFF :=
  ⟨crc16_nil, crc16_concat, by decide +kernel⟩

/-- Settles O15: each of the three examples evaluates. -/
theorem wholeFrameCrcDependsOnTheFrame : Obligations.WholeFrameCrcDependsOnTheFrame :=
  ⟨by decide +kernel, by decide +kernel, by decide +kernel⟩

end Sys2Proof.Machine
end

section
/-! The six CRC commands (40_crc.md R103 to R108), and the streaming of a sequence byte by byte (R102). -/

namespace Sys2Proof.Machine

theorem exec_crcInit (s : State) : exec .crcInit s = .next ((s.setCrc Config.crcInit).respond ⟨.ok, .none⟩) := rfl

theorem exec_crcUpdate (b : Byte) (s : State) :
    exec (.crcUpdate b) s = .next ((s.setCrc (crcUpdate s.crc b)).respond ⟨.ok, .none⟩) := rfl

theorem exec_crcRead (s : State) : exec .crcRead s = .next (s.answered ⟨.ok, .value s.crc⟩) := rfl

theorem exec_crcGen (data : List Byte) (s : State) :
    exec (.crcGen data) s = .next (s.answered ⟨.ok, .value (crc16 data)⟩) := rfl

theorem exec_crcAppend (data : List Byte) (s : State) :
    exec (.crcAppend data) s = .next (s.answered ⟨.ok, .bytes (appendCrc data)⟩) := rfl

theorem exec_crcCheck (data : List Byte) (s : State) :
    exec (.crcCheck data) s = .next (s.answered ⟨.ok, .verdict (crcValid data)⟩) := rfl

/-- Settles O7: the answer changes no register. -/
theorem crcInitSetsFFFF : Obligations.CrcInitSetsFFFF := ⟨rfl, exec_crcInit⟩

/-- Settles O8: the two values evaluate. -/
theorem crcUpdateFoldsOneByte : Obligations.CrcUpdateFoldsOneByte :=
  ⟨fun _ => rfl, fun s b => exec_crcUpdate b s, by decide +kernel⟩

/-- Settles O9: a 16-bit output goes out as its two wire bytes. -/
theorem crcReadAnswersTheRegister : Obligations.CrcReadAnswersTheRegister :=
  ⟨rfl, fun s => ⟨_, exec_crcRead s, rfl⟩⟩

/-- Settles O10: a 16-bit output goes out as its two wire bytes. -/
theorem crcGenAnswersTheCrcOfItsOperand : Obligations.CrcGenAnswersTheCrcOfItsOperand :=
  fun s data => ⟨rfl, _, exec_crcGen data s, rfl⟩

/-- Settles O11: the wire bytes of the CRC are the two bytes more. -/
theorem crcAppendAddsTheCrcHighByteFirst : Obligations.CrcAppendAddsTheCrcHighByteFirst :=
  fun s data => ⟨rfl, _, exec_crcAppend data s, rfl, appendCrc_length data⟩

theorem crcValid_of_short {s : List Byte} (h : s.length < 2) : crcValid s = false := if_pos h

/-- The two bytes after a sequence are read back as its trailing value. -/
theorem be16_byteAt_trailing (d : List Byte) (h l : Byte) :
    be16 (byteAt (d ++ [h, l]) d.length) (byteAt (d ++ [h, l]) (d.length + 1)) = be16 h l := by
  rw [byteAt_append_right d [h, l] 1]
  exact congrArg (be16 · l) (byteAt_append_right d [h, l] 0)

theorem crcValid_append (d : List Byte) (h l : Byte) : crcValid (d ++ [h, l]) = decide (crc16 d = be16 h l) := by
  simp only [crcValid, List.length_append, List.length_cons, List.length_nil, Config.crcLen, Nat.add_sub_cancel,
    slice_zero_length, be16_byteAt_trailing]
  rfl

/-- Settles O12: a sequence of two bytes or more is checked against its trailing value. -/
theorem crcCheckComparesTheTrailingValue : Obligations.CrcCheckComparesTheTrailingValue := by
  refine fun s => ⟨fun _ => rfl, fun data hshort => ?_, fun data h l => ?_, rfl, rfl⟩
  · rw [exec_crcCheck, crcValid_of_short hshort]
  · rw [exec_crcCheck, crcValid_append]

theorem crcValid_appendCrc (data : List Byte) : crcValid (appendCrc data) = true := by
  rw [appendCrc, wireBytes, crcValid_append, be16_hi_lo, decide_eq_true rfl]

/-- Settles O13: the trailing value of an appended sequence is its CRC. -/
theorem appendThenCheckIsValid : Obligations.AppendThenCheckIsValid := by
  refine fun s u data => ⟨_, exec_crcAppend data s, ?_⟩
  rw [exec_crcCheck, crcValid_appendCrc]

/-- One `CRC_UPDATE` per byte folds the bytes into the register, with one answer each. -/
theorem runCommands_crcUpdates (data : List Byte) (s : State) : runCommands (data.map .crcUpdate) s =
    .next { s with crc := data.foldl crcUpdate s.crc,
                   responses := s.responses ++ List.replicate data.length ⟨.ok, .none⟩ } := by
  induction data generalizing s with
  | nil => simp [runCommands]
  | cons b data ih => simp [runCommands, exec_crcUpdate, ih, State.respond, State.setCrc, List.replicate_succ]

/-- Settles O14: `CRC_INIT` begins the fold that the updates carry on. -/
theorem streamingLeavesCrc16 : Obligations.StreamingLeavesCrc16 := by
  refine ⟨fun _ => rfl, fun s data => ?_, crc16_append⟩
  simp [crcStream, runCommands, exec_crcInit, runCommands_crcUpdates, State.respond, State.setCrc, crc16,
    List.replicate_succ]

end Sys2Proof.Machine
end

section
/-! One changed byte is found (40_crc.md R111, 95_test_vectors.md V23), by `CRC_CHECK` and by `PARSE_RESPONSE`. -/

namespace Sys2Proof.Machine

theorem byteAt_set_self {s : List Byte} {i : Nat} (b : Byte) (h : i < s.length) : byteAt (s.set i b) i = b := by
  simp [byteAt, h]

theorem byteAt_set_ne {s : List Byte} {i j : Nat} (b : Byte) (h : i ≠ j) : byteAt (s.set i b) j = byteAt s j := by
  simp [byteAt, List.getD_eq_getElem?_getD, h]

/-- A sequence with its CRC, one byte of it changed: whichever of the two parts the byte is in, the trailing value is not
the CRC of what stands before it. -/
theorem appendCrc_set {s : List Byte} {i : Nat} {b : Byte} (hlt : i < (appendCrc s).length)
    (hb : b ≠ byteAt (appendCrc s) i) : ∃ (d : List Byte) (h l : Byte),
      (appendCrc s).set i b = d ++ [h, l] ∧ d.length = s.length ∧ crc16 d ≠ be16 h l := by
  by_cases hdata : i < s.length
  · rw [appendCrc, byteAt_append_left _ _ hdata] at hb
    refine ⟨s.set i b, hi (crc16 s), lo (crc16 s), List.set_append_left _ _ hdata, List.length_set, ?_⟩
    rw [be16_hi_lo]
    exact crc16_set_ne hdata hb
  · obtain ⟨j, rfl⟩ := Nat.exists_eq_add_of_le (Nat.le_of_not_lt hdata)
    rw [appendCrc, byteAt_append_right] at hb
    have hset : (appendCrc s).set (s.length + j) b = s ++ (wireBytes (crc16 s)).set j b := by
      simp [appendCrc, List.set_append_right]
    have hcrc : be16 (hi (crc16 s)) (lo (crc16 s)) = crc16 s := be16_hi_lo _
    match j with
    | 0 => exact ⟨s, b, lo (crc16 s), hset, rfl, fun h => hb (be16_inj.mp (hcrc.trans h)).1.symm⟩
    | 1 => exact ⟨s, hi (crc16 s), b, hset, rfl, fun h => hb (be16_inj.mp (hcrc.trans h)).2.symm⟩
    | j + 2 =>
      rw [appendCrc_length] at hlt
      omega

/-- Settles O16: the changed sequence ends in a value that is not its CRC. -/
theorem singleByteChangeFailsCrcCheck : Obligations.SingleByteChangeFailsCrcCheck := by
  intro s data i b hlt hb
  obtain ⟨d, h, l, heq, -, hcrc⟩ := appendCrc_set hlt hb
  rw [exec_crcCheck, heq, crcValid_append, decide_eq_false hcrc]

/-- The two length checks of the parser raise the same error, and the first adds nothing where the second fails
(41_frame.md R131). -/
theorem parseResponse_of_length_ne {raw : List Byte} (h : raw.length ≠ 3 + (byteAt raw 2).toNat + 2) :
    parseResponse raw = .error .frameTooShort := by
  simp only [parseResponse, if_pos h, ite_self]

/-- What the parser compares and answers for a sequence of the length its byte count gives (41_frame.md R131). -/
theorem parseResponse_append {d : List Byte} (h l : Byte) (hlen : d.length = 3 + (byteAt d 2).toNat) :
    parseResponse (d ++ [h, l]) =
      if crc16 d ≠ be16 h l then .error .crcMismatch
      else if byteAt d 0 ≠ Config.devAddr then .error .unexpectedDeviceAddress
      else .ok ⟨byteAt d 0, byteAt d 1, byteAt d 2, d.drop 3, crc16 d⟩ := by
  have hheader : ∀ i < 3, byteAt (d ++ [h, l]) i = byteAt d i := fun i hi => byteAt_append_left _ _ (by omega)
  have hpayload : slice (d ++ [h, l]) 3 d.length = d.drop 3 := by
    rw [slice, List.drop_append_of_le_length (by omega), List.take_left' List.length_drop]
  have hlong : ¬ (d ++ [h, l]).length < 5 := by
    rw [List.length_append, hlen]
    simp
  simp only [parseResponse, Config.minFrame, Config.hdrLen, Config.crcLen, hheader 0 (by decide), hheader 1 (by decide),
    hheader 2 (by decide), ← hlen, if_neg hlong, slice_zero_length, hpayload, be16_byteAt_trailing]
  simp

/-- A well-formed frame is serialized as its header and payload with their CRC (41_frame.md R137). -/
theorem serialize_eq_appendCrc {f : Frame} (h : f.wellFormed = true) :
    f.serialize = appendCrc ([f.deviceAddress, f.functionCode, f.byteCount] ++ f.payload) := by
  obtain ⟨-, -, hcrc⟩ := (wellFormed_iff f).mp h
  rw [Frame.serialize, appendCrc, ← hcrc]

theorem byteAt_serialize_two (f : Frame) : byteAt f.serialize 2 = f.byteCount := rfl

theorem exec_parseResponse_of_error {raw : List Byte} {e : Status} (h : parseResponse raw = .error e) (s : State) :
    exec (.parseResponse raw) s = .next (s.answered ⟨e, .none⟩) := by
  simp only [exec, execParseResponse, h]
  rfl

/-- Another byte count calls for another length. -/
theorem parseResponse_byteCount_changed {f : Frame} {b : Byte} (hwf : f.wellFormed = true) (hb : b ≠ f.byteCount) :
    parseResponse (f.serialize.set 2 b) = .error .frameTooShort := by
  obtain ⟨hlen, -, -⟩ := (wellFormed_iff f).mp hwf
  have hne : b.toNat ≠ f.byteCount.toNat := fun h => hb (BitVec.eq_of_toNat_eq h)
  refine parseResponse_of_length_ne ?_
  rw [byteAt_set_self b (by simp), List.length_set, serialize_length]
  omega

/-- Any other byte leaves the length as the byte count says, and the trailing value is no longer the CRC. -/
theorem parseResponse_other_byte_changed {f : Frame} {i : Nat} {b : Byte} (hwf : f.wellFormed = true) (hi : i ≠ 2)
    (hlt : i < f.serialize.length) (hb : b ≠ byteAt f.serialize i) :
    parseResponse (f.serialize.set i b) = .error .crcMismatch := by
  obtain ⟨hlen, -, -⟩ := (wellFormed_iff f).mp hwf
  have hcount : byteAt (f.serialize.set i b) 2 = f.byteCount := byteAt_set_ne b hi
  rw [serialize_eq_appendCrc hwf] at hlt hb hcount ⊢
  obtain ⟨d, h, l, heq, hd, hcrc⟩ := appendCrc_set hlt hb
  have hdlen : d.length = 3 + f.byteCount.toNat := by
    rw [hd, List.length_append, hlen]
    rfl
  rw [heq, byteAt_append_left _ _ (by omega)] at hcount
  rw [heq, parseResponse_append h l (hdlen.trans (by rw [hcount])), if_pos hcrc]

/-- Settles O17: the byte count is checked against the length, every other byte by the CRC. -/
theorem singleByteChangeFailsParse : Obligations.SingleByteChangeFailsParse := by
  intro s f i b hwf hlt hb
  refine exec_parseResponse_of_error ?_ s
  split_ifs with hi
  · subst hi
    exact parseResponse_byteCount_changed hwf hb
  · exact parseResponse_other_byte_changed hwf hi hlt hb

end Sys2Proof.Machine
end

section
/-! `PARSE_RESPONSE` (41_frame.md R131 to R139): a sequence of the length its byte count gives is a header, a payload and a
CRC, and the parser answers `OK` for exactly the serializations of well-formed frames. -/

namespace Sys2Proof.Machine

/-- The answer of an operation that writes no state: its outputs with `OK`, or its error with none (00_scope.md R15). -/
def settled : Except Status Outputs → Response
  | .ok out => ⟨.ok, out⟩
  | .error e => ⟨e, .none⟩

theorem settle_eq_answered (result : Except Status Outputs) (s : State) :
    settle result s = .next (s.answered (settled result)) := by
  cases result <;> rfl

theorem exec_parseResponse (raw : List Byte) (s : State) :
    exec (.parseResponse raw) s = .next (s.answered (settled ((parseResponse raw).map .frame))) :=
  settle_eq_answered _ s

theorem exec_parseResponse_of_ok {raw : List Byte} {f : Frame} (h : parseResponse raw = .ok f) (s : State) :
    exec (.parseResponse raw) s = .next (s.answered ⟨.ok, .frame f⟩) := by
  rw [exec_parseResponse, h]
  rfl

/-- The checks that are left once the payload has the length the byte count gives (41_frame.md R131). -/
theorem parseResponse_of_payload_length {addr fc bc : Byte} {payload : List Byte} (h l : Byte)
    (hlen : payload.length = bc.toNat) :
    parseResponse ([addr, fc, bc] ++ payload ++ [h, l]) =
      if crc16 ([addr, fc, bc] ++ payload) ≠ be16 h l then .error .crcMismatch
      else if addr ≠ Config.devAddr then .error .unexpectedDeviceAddress
      else .ok ⟨addr, fc, bc, payload, be16 h l⟩ := by
  have hhead : ([addr, fc, bc] ++ payload).length = 3 + (byteAt ([addr, fc, bc] ++ payload) 2).toNat := by
    rw [List.length_append, hlen]
    rfl
  rw [parseResponse_append h l hhead]
  by_cases hcrc : crc16 ([addr, fc, bc] ++ payload) = be16 h l
  · rw [hcrc]
    rfl
  · rw [if_pos hcrc, if_pos hcrc]

/-- A sequence of the length its byte count gives has the parts of a frame (30_encoding.md R63). -/
theorem exists_parts_of_length {raw : List Byte} (hlen : raw.length = 3 + (byteAt raw 2).toNat + 2) :
    ∃ (addr fc bc : Byte) (payload : List Byte) (h l : Byte),
      raw = [addr, fc, bc] ++ payload ++ [h, l] ∧ payload.length = bc.toNat := by
  match raw with
  | [] | [_] | [_, _] => simp at hlen
  | addr :: fc :: bc :: rest =>
    have hrest : rest.length = bc.toNat + 2 := by
      simp only [List.length_cons, byteAt_cons_succ, byteAt_cons_zero] at hlen
      omega
    obtain ⟨h, l, htrailing⟩ := List.length_eq_two.mp (show (rest.drop bc.toNat).length = 2 by simp [hrest])
    refine ⟨addr, fc, bc, rest.take bc.toNat, h, l, ?_, by simp [hrest]⟩
    rw [← htrailing]
    simp

/-- The length is wrong exactly where the parser says so: both length checks together (41_frame.md R131). -/
theorem parseResponse_eq_frameTooShort {raw : List Byte} :
    parseResponse raw = .error .frameTooShort ↔ raw.length ≠ 3 + (byteAt raw 2).toNat + 2 := by
  refine ⟨fun herror hlen => ?_, parseResponse_of_length_ne⟩
  obtain ⟨addr, fc, bc, payload, h, l, rfl, hpayload⟩ := exists_parts_of_length hlen
  rw [parseResponse_of_payload_length h l hpayload] at herror
  split_ifs at herror <;> simp at herror

/-- The parser answers a frame exactly for the serialization of that frame, which is then well formed (41_frame.md R135,
R138, R139). -/
theorem parseResponse_eq_ok {raw : List Byte} {f : Frame} :
    parseResponse raw = .ok f ↔ f.wellFormed = true ∧ raw = f.serialize := by
  constructor
  · intro hok
    by_cases hlen : raw.length = 3 + (byteAt raw 2).toNat + 2
    · obtain ⟨addr, fc, bc, payload, h, l, rfl, hpayload⟩ := exists_parts_of_length hlen
      rw [parseResponse_of_payload_length h l hpayload] at hok
      split_ifs at hok with hcrc haddr
      obtain rfl := Except.ok.inj hok
      refine ⟨(wellFormed_iff _).mpr ⟨hpayload, not_not.mp haddr, (not_not.mp hcrc).symm⟩, ?_⟩
      simp only [Frame.serialize, wireBytes, hi_be16, lo_be16]
    · rw [parseResponse_of_length_ne hlen] at hok
      cases hok
  · rintro ⟨hwf, rfl⟩
    obtain ⟨hlen, haddr, hcrc⟩ := (wellFormed_iff f).mp hwf
    rw [Frame.serialize, wireBytes, parseResponse_of_payload_length _ _ hlen, be16_hi_lo, ← hcrc,
      if_neg (not_not.mpr rfl), if_neg (not_not.mpr haddr)]

/-- The serialization tells the fields apart, whatever the length of the payload. -/
theorem serialize_injective {f g : Frame} (h : f.serialize = g.serialize) : f = g := by
  obtain ⟨hhead, hcrc⟩ := List.append_inj' h rfl
  obtain ⟨addr, fc, bc, payload, c⟩ := f
  obtain ⟨addr', fc', bc', payload', c'⟩ := g
  obtain ⟨hhi, hlo⟩ : hi c = hi c' ∧ lo c = lo c' := by simpa [wireBytes] using hcrc
  obtain rfl : c = c' := by rw [← be16_hi_lo c, hhi, hlo, be16_hi_lo]
  simpa using hhead

/-- Settles O24: the parser answers a well-formed frame for its serialization; a frame answered for the serialization of
another one would be that other one, which is not well formed. -/
theorem parseUndoesSerialize : Obligations.ParseUndoesSerialize := by
  refine ⟨fun s f hwf => exec_parseResponse_of_ok (parseResponse_eq_ok.mpr ⟨hwf, rfl⟩) s, fun s f hwf => ?_⟩
  cases hparse : parseResponse f.serialize with
  | ok g =>
    obtain ⟨hg, heq⟩ := parseResponse_eq_ok.mp hparse
    obtain rfl := serialize_injective heq
    simp [hwf] at hg
  | error e => exact ⟨e, by simpa using parseResponse_error hparse, exec_parseResponse_of_error hparse s⟩

/-- Settles O20: the first two checks are one on the length, the others are those on the parts. -/
theorem parseResponseChecksInOrder : Obligations.ParseResponseChecksInOrder := by
  refine fun s => ⟨fun _ => rfl, fun raw hshort => ?_, fun raw _ hlen => ?_, fun addr fc bc payload h l hlen => ?_⟩
  · exact exec_parseResponse_of_error (parseResponse_of_length_ne (by omega)) s
  · exact exec_parseResponse_of_error (parseResponse_of_length_ne hlen) s
  · rw [exec_parseResponse, parseResponse_of_payload_length h l hlen]
    split_ifs <;> rfl

/-- A frame with the device address and its own CRC parses, whatever its function code (41_frame.md R132). -/
theorem parseResponse_of_crc {fc bc : Byte} {payload : List Byte} {c : Word} (hlen : payload.length = bc.toNat)
    (hc : c = crc16 ([0x11, fc, bc] ++ payload)) :
    parseResponse ([0x11, fc, bc] ++ payload ++ [hi c, lo c]) = .ok ⟨0x11, fc, bc, payload, c⟩ :=
  parseResponse_eq_ok.mpr ⟨(wellFormed_iff _).mpr ⟨hlen, rfl, hc⟩, rfl⟩

/-- Settles O21: the length corners by the length check, the others by the checks on the parts; the CRC of the shortest
telemetry frame evaluates. -/
theorem parseResponseCornerCases : Obligations.ParseResponseCornerCases := by
  refine ⟨fun raw hshort => ?short, fun raw hlong => ?long, fun addr fc bc payload h l hlen haddr => ?address,
    fun addr fc bc payload c hlen hc hne => ?lowByteFirst, fun fc c hc => ?byteCountZero, by decide +kernel,
    fun fc bc payload c => parseResponse_of_crc⟩
  case short => exact parseResponse_of_length_ne (by omega)
  case long => exact parseResponse_of_length_ne (by omega)
  case address =>
    rw [parseResponse_of_payload_length h l hlen, if_pos haddr, ite_not]
    split_ifs <;> rfl
  case lowByteFirst =>
    have hswapped : c ≠ be16 (lo c) (hi c) := fun h => hne (be16_inj.mp ((be16_hi_lo c).trans h)).1
    rw [parseResponse_of_payload_length _ _ hlen, ← hc, if_pos hswapped]
  case byteCountZero => exact parseResponse_of_crc (payload := []) rfl hc

/-- The parser's one response is its frame with `OK`, or its error, which is never `OK`. -/
theorem parseResponse_of_status_ok {s t : State} {raw : List Byte} {r : Response}
    (h : exec (.parseResponse raw) s = .next t) (hr : t.responses = s.responses ++ [r]) (hok : r.status = .ok) :
    ∃ f, parseResponse raw = .ok f ∧ r = ⟨.ok, .frame f⟩ := by
  cases hparse : parseResponse raw with
  | ok f =>
    obtain rfl := Host.Outcome.next.inj ((exec_parseResponse_of_ok hparse s).symm.trans h)
    exact ⟨f, rfl, by simpa using hr.symm⟩
  | error e =>
    obtain rfl := Host.Outcome.next.inj ((exec_parseResponse_of_error hparse s).symm.trans h)
    obtain rfl : _ = r := by simpa using hr
    obtain rfl : e = .ok := hok
    simpa using parseResponse_error hparse

/-- Settles O22: the frame goes out as its serialization, which is the sequence parsed. -/
theorem parseOkOutputsEqualTheInput : Obligations.ParseOkOutputsEqualTheInput := by
  intro s t raw r h hr hok
  obtain ⟨f, hparse, rfl⟩ := parseResponse_of_status_ok h hr hok
  exact (parseResponse_eq_ok.mp hparse).2.symm

/-- Settles O23: the payload is as long as the byte count, which is one byte. -/
theorem parsedFramesAreWellFormed : Obligations.ParsedFramesAreWellFormed := by
  intro s t raw f h hr
  obtain ⟨g, hparse, hg⟩ := parseResponse_of_status_ok h hr rfl
  obtain rfl : f = g := by simpa using hg
  obtain ⟨hwf, -⟩ := parseResponse_eq_ok.mp hparse
  obtain ⟨hlen, haddr, hcrc⟩ := (wellFormed_iff f).mp hwf
  exact ⟨hlen, hlen.trans_le (Nat.le_of_lt_succ f.byteCount.isLt), haddr, hcrc⟩

/-- Settles O25: the CRC of a well-formed frame is the one that is appended to its header and payload. -/
theorem serializationIsTheAppendedCrcFrame : Obligations.SerializationIsTheAppendedCrcFrame := by
  refine ⟨fun _ => rfl, fun s f hwf => ?_, fun _ => rfl⟩
  rw [exec_crcAppend, serialize_eq_appendCrc hwf]

end Sys2Proof.Machine
end

section
/-! `BUILD_REQUEST` (41_frame.md R130) and its frames (R141). -/

namespace Sys2Proof.Machine

/-- The six bytes of a request before its CRC (41_frame.md R130). -/
def requestHead (fc : Byte) (start count : Word) : List Byte :=
  [Config.devAddr, fc, hi start, lo start, hi count, lo count]

/-- The range checks of the builder over naturals (41_frame.md R130, log entry 9). -/
theorem buildRequest_of_out_of_range {fc start count : Nat}
    (h : (fc ≠ 3 ∧ fc ≠ 4) ∨ start > 0xFFFF ∨ count > 0xFFFF) :
    buildRequest fc start count = .error .invalidArgument := by
  have hset : Config.fcSet.map BitVec.toNat = [3, 4] := rfl
  rw [buildRequest, hset]
  obtain hfc | hstart | hcount := h
  · rw [if_pos (by simpa using hfc)]
  · rw [if_pos hstart, ite_self]
  · rw [if_pos hcount, ite_self, ite_self]

/-- A 16-bit field is never out of range (41_frame.md R130). -/
theorem buildRequest_ok {fc : Byte} (hfc : fc = 0x03 ∨ fc = 0x04) (start count : Word) :
    buildRequest fc.toNat start.toNat count.toNat = .ok (appendCrc (requestHead fc start count)) := by
  have hset : fc.toNat ∈ Config.fcSet.map BitVec.toNat := List.mem_map_of_mem (by simpa using hfc)
  have hstart : ¬ 0xFFFF < start.toNat := Nat.not_lt.mpr (Nat.le_of_lt_succ start.isLt)
  have hcount : ¬ 0xFFFF < count.toNat := Nat.not_lt.mpr (Nat.le_of_lt_succ count.isLt)
  simp only [buildRequest, if_neg (not_not.mpr hset), if_neg hstart, if_neg hcount, BitVec.ofNat_toNat,
    BitVec.setWidth_eq]
  rfl

theorem exec_buildRequest (fc : Byte) (start count : Word) (s : State) : exec (.buildRequest fc start count) s =
    .next (s.answered (settled ((buildRequest fc.toNat start.toNat count.toNat).map .bytes))) :=
  settle_eq_answered _ s

theorem exec_buildRequest_of_fc {fc : Byte} (hfc : fc = 0x03 ∨ fc = 0x04) (start count : Word) (s : State) :
    exec (.buildRequest fc start count) s =
      .next (s.answered ⟨.ok, .bytes (appendCrc (requestHead fc start count))⟩) := by
  rw [exec_buildRequest, buildRequest_ok hfc]
  rfl

/-- Settles O18: the fields of the command pass the range checks, so the function code decides. -/
theorem buildRequestMakesTheFrameOrRefuses : Obligations.BuildRequestMakesTheFrameOrRefuses := by
  refine ⟨fun s fc start count => ⟨rfl, fun hfc => ?accepted, fun ⟨hne3, hne4⟩ => ?refused⟩,
    fun _ _ _ => buildRequest_of_out_of_range⟩
  case accepted =>
    exact ⟨requestHead fc start count, rfl, exec_buildRequest_of_fc hfc start count s, buildRequest_ok hfc start count⟩
  case refused =>
    have hfc : fc.toNat ≠ 3 ∧ fc.toNat ≠ 4 :=
      ⟨fun h => hne3 (BitVec.eq_of_toNat_eq h), fun h => hne4 (BitVec.eq_of_toNat_eq h)⟩
    rw [exec_buildRequest, buildRequest_of_out_of_range (.inl hfc)]
    rfl

/-- Byte 2 of a request is the high byte of its start, and as a byte count it gives 8 bytes only for 3 (41_frame.md
R141). -/
theorem parseResponse_request {start : Word} (h : hi start ≠ 3) (fc : Byte) (count : Word) :
    parseResponse (appendCrc (requestHead fc start count)) = .error .frameTooShort := by
  have hne : (hi start).toNat ≠ 3 := fun heq => h (BitVec.eq_of_toNat_eq heq)
  refine parseResponse_of_length_ne (show 8 ≠ 3 + (hi start).toNat + 2 from ?_)
  omega

/-- Settles O19: a request is six bytes with their CRC. -/
theorem requestsAreValidAndDecodeBack : Obligations.RequestsAreValidAndDecodeBack := by
  intro s u fc start count hfc
  refine ⟨_, exec_buildRequest_of_fc hfc start count s, rfl, rfl, ?valid, be16_hi_lo start, be16_hi_lo count,
    fun hstart => exec_parseResponse_of_error (parseResponse_request hstart fc count) u⟩
  case valid => rw [exec_crcCheck, crcValid_appendCrc]

end Sys2Proof.Machine
end

section
/-! `EXTRACT_WORDS` (41_frame.md R133) and the word split. -/

namespace Sys2Proof.Machine

/-- Word k of the split is made of bytes 2k and 2k + 1 (41_frame.md R133); a last single byte is in no word. -/
theorem splitWords_eq_map_range (payload : List Byte) : splitWords payload =
    (List.range (payload.length / 2)).map fun k => be16 (byteAt payload (2 * k)) (byteAt payload (2 * k + 1)) := by
  induction payload using splitWords.induct with
  | case1 h l rest ih =>
    have hlen : (h :: l :: rest).length / 2 = rest.length / 2 + 1 := by
      simp only [List.length_cons]
      omega
    rw [hlen, List.range_succ_eq_map]
    simp [ih, Nat.mul_add]
  | case2 payload hshort =>
    match payload with
    | [] => rfl
    | [_] => simp [splitWords]
    | h :: l :: rest => exact absurd rfl (hshort h l rest)

/-- Written high byte first, the words of an even number of bytes are those bytes. -/
theorem flatMap_wireBytes_splitWords {payload : List Byte} (heven : payload.length % 2 = 0) :
    (splitWords payload).flatMap wireBytes = payload := by
  induction payload using splitWords.induct with
  | case1 h l rest ih =>
    have hrest : rest.length % 2 = 0 := by
      simp only [List.length_cons] at heven
      omega
    simp [ih hrest, wireBytes, hi_be16, lo_be16]
  | case2 payload hshort =>
    match payload with
    | [] => rfl
    | [_] => simp at heven
    | h :: l :: rest => exact absurd rfl (hshort h l rest)

theorem exec_extractWords {bc : Byte} {payload : List Byte} (hlen : payload.length = bc.toNat) (addr fc : Byte)
    (s : State) : exec (.extractWords addr fc bc payload) s =
      .next (s.answered (settled ((extractWords fc bc payload).map .words))) := by
  simp only [exec, execExtractWords, if_neg (not_not.mpr hlen), settle_eq_answered]

/-- Settles O26: the two checks of the word split in their order, then its words by position. -/
theorem extractWordsSplitsTelemetryPayloads : Obligations.ExtractWordsSplitsTelemetryPayloads := by
  refine fun s addr fc bc payload hlen => ⟨rfl, ?_⟩
  rw [exec_extractWords hlen, extractWords, splitWords_eq_map_range, hlen]
  split_ifs <;> rfl

/-- Settles O27: the words go out as the bytes they were made of. -/
theorem extractedWordsCarryThePayload : Obligations.ExtractedWordsCarryThePayload := by
  intro s addr bc payload hlen heven
  refine ⟨⟨.ok, .words (splitWords payload)⟩, ?_, ?_⟩
  · rw [exec_extractWords hlen, extractWords_ok.mpr ⟨rfl, heven, rfl⟩]
    rfl
  · exact congrArg (0x00 :: ·) (flatMap_wireBytes_splitWords (hlen ▸ heven))

end Sys2Proof.Machine
end

section
/-! A `Complete` frame has passed the parser's length checks (41_frame.md R140, 42_reassembler.md R163). -/

namespace Sys2Proof.Machine

/-- A feed answers `Complete` only for accumulated bytes that classify as complete (42_reassembler.md R161). -/
theorem classify_of_feedAnswer_complete {t : List Byte} (h : (feedAnswer t).status = .complete) :
    classify t = .complete t := by
  unfold feedAnswer at h
  split at h
  · simp at h
  · next frame hc =>
    obtain ⟨-, -, rfl⟩ := classify_complete.mp hc
    exact hc
  · simp at h

/-- A sequence of the length its byte count gives passes the length checks; the CRC and the address are left to fail. -/
theorem exec_parseResponse_of_length {raw : List Byte} (hlen : raw.length = 3 + (byteAt raw 2).toNat + 2)
    (s : State) : ∃ p : Response, exec (.parseResponse raw) s = .next (s.answered p) ∧
      (p.status = .crcMismatch ∨ p.status = .unexpectedDeviceAddress ∨ p.status = .ok) := by
  refine ⟨_, exec_parseResponse raw s, ?_⟩
  cases hparse : parseResponse raw with
  | ok f => exact .inr (.inr rfl)
  | error e =>
    have herror : e = .frameTooShort ∨ e = .crcMismatch ∨ e = .unexpectedDeviceAddress := by
      simpa using parseResponse_error hparse
    obtain rfl | rfl | rfl := herror
    · exact absurd hlen (parseResponse_eq_frameTooShort.mp hparse)
    · exact .inl rfl
    · exact .inr (.inl rfl)

/-- Settles O34: `Complete` is the length check of the parser, made by the reassembler. -/
theorem completeFramesAreNeverTooShort : Obligations.CompleteFramesAreNeverTooShort := by
  intro s t u chunk r h hr hstatus
  rw [exec_raFeed] at h
  obtain rfl := Host.Outcome.next.inj h
  obtain rfl : feedAnswer (s.rbuf ++ chunk) = r := by simpa using hr
  have hc := classify_of_feedAnswer_complete hstatus
  obtain ⟨-, hlen, -⟩ := classify_complete.mp hc
  have hmin : 5 ≤ expectedLen (s.rbuf ++ chunk) := by
    simp only [expectedLen, Config.hdrLen, Config.crcLen]
    omega
  refine ⟨by simp only [feedAnswer, hc], by simp [keptBytes, hc], hlen, hlen ▸ hmin,
    exec_parseResponse_of_length hlen u⟩

end Sys2Proof.Machine
end

section
/-! The reassembler (42_reassembler.md R160 to R169): what the classification says of a sequence and of its parts, what a
feed does in each of its cases, and runs of feeds. -/

namespace Sys2Proof.Machine

/-! ### The classification of a sequence and of its parts -/

/-- The shortest frame has a byte count of 0 (42_reassembler.md R167). -/
theorem five_le_expectedLen (t : List Byte) : 5 ≤ expectedLen t := by
  simp only [expectedLen, Config.hdrLen, Config.crcLen]
  omega

/-- The byte count stands in the header, so later bytes do not change the expected length (42_reassembler.md R165). -/
theorem expectedLen_append {p : List Byte} (h : Config.hdrLen ≤ p.length) (q : List Byte) :
    expectedLen (p ++ q) = expectedLen p := by
  simp only [expectedLen, byteAt_append_left p q (i := 2) h]

theorem classify_header {bc : Byte} {rest : List Byte} (h : rest.length = bc.toNat + 2) (a b : Byte) :
    classify ([a, b, bc] ++ rest) = .complete ([a, b, bc] ++ rest) := by
  refine classify_complete.mpr ⟨by simp [Config.hdrLen], ?_, rfl⟩
  have hbc : byteAt ([a, b, bc] ++ rest) 2 = bc := rfl
  simp only [expectedLen, hbc, Config.hdrLen, Config.crcLen, List.length_append, h, List.length_cons, List.length_nil]
  omega

/-- A proper beginning of a frame is incomplete: with a header it expects as many bytes as the frame has. -/
theorem classify_of_proper_beginning {p q frame : List Byte} (h : classify (p ++ q) = .complete frame) (hq : q ≠ []) :
    classify p = .incomplete := by
  obtain ⟨-, hlen, -⟩ := classify_complete.mp h
  rw [classify_incomplete]
  by_cases hp : p.length < Config.hdrLen
  · exact .inl hp
  · have hpos : 0 < q.length := List.length_pos_iff.mpr hq
    rw [expectedLen_append (not_lt.mp hp), List.length_append] at hlen
    exact .inr (by omega)

/-- A frame with bytes behind it is over-long, whatever those bytes are (42_reassembler.md R169). -/
theorem classify_of_proper_extension {p q frame : List Byte} (h : classify p = .complete frame) (hq : q ≠ []) :
    classify (p ++ q) = .overflow := by
  obtain ⟨hhdr, hlen, -⟩ := classify_complete.mp h
  have hpos : 0 < q.length := List.length_pos_iff.mpr hq
  rw [classify_overflow, expectedLen_append hhdr, List.length_append]
  omega

/-- The status sees the length and the byte count only. -/
theorem feedAnswer_status_congr {t u : List Byte} (hlen : t.length = u.length) (hbc : byteAt t 2 = byteAt u 2) :
    (feedAnswer t).status = (feedAnswer u).status := by
  have hexp : expectedLen t = expectedLen u := by simp only [expectedLen, hbc]
  simp only [feedAnswer, classify, hlen, hexp]
  split_ifs <;> rfl

/-! ### A feed, case by case -/

theorem exec_raFeed_of_classify_incomplete {chunk : List Byte} {s : State} (h : classify (s.rbuf ++ chunk) = .incomplete) :
    exec (.raFeed chunk) s =
      .next { s with rbuf := s.rbuf ++ chunk, responses := s.responses ++ [⟨.incomplete, .none⟩] } := by
  simp only [exec_raFeed, keptBytes, feedAnswer, h]
  rfl

theorem exec_raFeed_of_classify_complete {chunk frame : List Byte} {s : State}
    (h : classify (s.rbuf ++ chunk) = .complete frame) :
    exec (.raFeed chunk) s =
      .next { s with rbuf := [], responses := s.responses ++ [⟨.complete, .bytes frame⟩] } := by
  simp only [exec_raFeed, keptBytes, feedAnswer, h]
  rfl

theorem exec_raFeed_of_classify_overflow {chunk : List Byte} {s : State} (h : classify (s.rbuf ++ chunk) = .overflow) :
    exec (.raFeed chunk) s = .next { s with rbuf := [], responses := s.responses ++ [⟨.overflow, .none⟩] } := by
  simp only [exec_raFeed, keptBytes, feedAnswer, h]
  rfl

/-- To write an empty buffer over an empty buffer changes nothing. -/
theorem with_rbuf_nil_eq_answered {s : State} (hs : s.rbuf = []) (r : Response) :
    { s with rbuf := [], responses := s.responses ++ [r] } = s.answered r := by
  rw [← hs]

/-- Fed whole into an empty buffer, a frame leaves its answer only. -/
theorem exec_raFeed_frame {chunk frame : List Byte} {s : State} (hs : s.rbuf = [])
    (h : classify chunk = .complete frame) :
    exec (.raFeed chunk) s = .next (s.answered ⟨.complete, .bytes frame⟩) := by
  rw [exec_raFeed_of_classify_complete (frame := frame) (by rw [hs, List.nil_append, h]), with_rbuf_nil_eq_answered hs]

theorem exec_raFeed_too_long {chunk : List Byte} {s : State} (hs : s.rbuf = []) (h : classify chunk = .overflow) :
    exec (.raFeed chunk) s = .next (s.answered ⟨.overflow, .none⟩) := by
  rw [exec_raFeed_of_classify_overflow (by rw [hs, List.nil_append, h]), with_rbuf_nil_eq_answered hs]

/-- Settles O30: the four cases are the four branches of the classification. -/
theorem raFeedClassifiesTheAccumulatedBytes : Obligations.RaFeedClassifiesTheAccumulatedBytes := by
  rintro s chunk t e rfl rfl
  refine ⟨rfl, fun hshort => ?_, fun _ hlt => ?_, fun hhdr heq => ?_, fun hhdr hgt => ?_⟩
  · exact exec_raFeed_of_classify_incomplete (classify_incomplete.mpr (.inl hshort))
  · exact exec_raFeed_of_classify_incomplete (classify_incomplete.mpr (.inr hlt))
  · exact exec_raFeed_of_classify_complete (classify_complete.mpr ⟨hhdr, heq, rfl⟩)
  · exact exec_raFeed_of_classify_overflow (classify_overflow.mpr ⟨hhdr, hgt⟩)

/-- Settles O32: the accumulated bytes are the buffer at rest, which is incomplete. -/
theorem emptyChunkChangesNothing : Obligations.EmptyChunkChangesNothing := by
  intro s hs
  have hc : classify (s.rbuf ++ []) = .incomplete := by rw [List.append_nil, bufferAtRest_iff.mp hs]
  rw [exec_raFeed_of_classify_incomplete hc, List.append_nil]

/-- Settles O33: both ends are frames of a header, its byte count of bytes and a CRC. -/
theorem shortestAndLongestFrames : Obligations.ShortestAndLongestFrames := by
  refine ⟨fun t => ⟨five_le_expectedLen t, expectedLen_le t⟩, fun s hs => ⟨?shortest, ?oneMore, ?empty, ?full⟩⟩
  case shortest => exact exec_raFeed_frame hs (classify_header (rest := [0x05, 0x23]) rfl 0x11 0x04)
  case oneMore =>
    have hframe := classify_header (bc := 0x00) (rest := [0x05, 0x23]) rfl 0x11 0x04
    exact exec_raFeed_too_long hs (classify_of_proper_extension (q := [0x11]) hframe (by simp))
  case empty => exact fun a b rest h => exec_raFeed_frame hs (classify_header h a b)
  case full => exact fun a b rest h => exec_raFeed_frame hs (classify_header h a b)

/-- Settles O38: either answer is `feedAnswer` of the accumulated bytes. -/
theorem reassemblerReadsOnlyByteTwo : Obligations.ReassemblerReadsOnlyByteTwo := by
  intro s u s' u' c d r q hlen hbc hs hu hr hq
  rw [exec_raFeed] at hs hu
  obtain rfl := Host.Outcome.next.inj hs
  obtain rfl := Host.Outcome.next.inj hu
  obtain rfl : feedAnswer (s.rbuf ++ c) = r := by simpa using hr
  obtain rfl : feedAnswer (u.rbuf ++ d) = q := by simpa using hq
  exact feedAnswer_status_congr hlen hbc

/-- Settles O29: the command is a write of the empty buffer. -/
theorem raResetEmptiesTheBufferOnly : Obligations.RaResetEmptiesTheBufferOnly :=
  ⟨rfl, fun _ => ⟨_, rfl, rfl, rfl⟩⟩

/-! ### Runs of feeds -/

/-- The chunks that bring the buffered bytes to a frame: by induction on the chunks, as every accumulation before the last
chunk is a proper beginning of the frame. -/
theorem runCommands_raFeeds_of_complete {chunks : List (List Byte)} {last frame : List Byte} {s : State}
    (h : classify (s.rbuf ++ (chunks.flatten ++ last)) = .complete frame) (hlast : last ≠ []) :
    runCommands (chunks.map .raFeed ++ [.raFeed last]) s = .next { s with
      rbuf := []
      responses := s.responses ++ List.replicate chunks.length ⟨.incomplete, .none⟩ ++ [⟨.complete, .bytes frame⟩] } := by
  induction chunks generalizing s with
  | nil =>
    have hfed := exec_raFeed_of_classify_complete (chunk := last) h
    simp [runCommands, hfed]
  | cons chunk chunks ih =>
    rw [List.flatten_cons, List.append_assoc, ← List.append_assoc] at h
    have hfirst := exec_raFeed_of_classify_incomplete (classify_of_proper_beginning h (by simp [hlast]))
    have hothers := ih (s := { s with rbuf := s.rbuf ++ chunk, responses := s.responses ++ [⟨.incomplete, .none⟩] }) h
    simpa [runCommands, hfirst, List.replicate_succ] using hothers

/-- Settles O35: the run from an empty buffer, where nothing is left to empty. -/
theorem splitsOfAFrameComplete : Obligations.SplitsOfAFrameComplete := by
  rintro s chunks last frame hs rfl hhdr hlen hlast
  have hc : classify (chunks.flatten ++ last) = .complete (chunks.flatten ++ last) :=
    classify_complete.mpr ⟨hhdr, hlen, rfl⟩
  refine ⟨?_, exec_raFeed_frame hs hc⟩
  rw [runCommands_raFeeds_of_complete (by rw [hs, List.nil_append, hc]) hlast, ← hs]

/-- Settles O36: after the first frame the buffer is as empty as before it; together they are a frame with bytes behind
it. -/
theorem oneFramePerChunk : Obligations.OneFramePerChunk := by
  intro s f g hs hfhdr hflen hghdr hglen
  have hf : classify f = .complete f := classify_complete.mpr ⟨hfhdr, hflen, rfl⟩
  have hg : classify g = .complete g := classify_complete.mpr ⟨hghdr, hglen, rfl⟩
  have hgne : g ≠ [] := List.ne_nil_of_length_pos (by omega)
  refine ⟨exec_raFeed_too_long hs (classify_of_proper_extension hf hgne), ?_⟩
  have hsecond := exec_raFeed_frame (s := s.answered ⟨.complete, .bytes f⟩) hs hg
  simp [runCommands, exec_raFeed_frame hs hf, hsecond]

end Sys2Proof.Machine
end

section
/-! What the host knows of the block without a read-out (60_exceptions.md R213, R216). -/

namespace Sys2Proof.Machine

/-- Settles O3: there is nothing to fetch. -/
theorem idleBlockHoldsItsState : Obligations.IdleBlockHoldsItsState := by
  intro s hpending
  simp only [step, fetch_eq_none.mpr hpending]

/-- The host's knowledge moves with the commands that may write the buffer and no others (10_state.md R22). -/
theorem knownRlen_of_not_writesBuffer {i : Instr} (hbuf : writesBuffer i = false) (n : Nat) (r : Response) :
    knownRlen n i r = n := by
  cases i with
  | raReset | raFeed => cases hbuf
  | _ => rfl

/-- From the answer to a feed the host computes how many bytes the feed kept (42_reassembler.md R161). -/
theorem knownRlen_feedAnswer (buf chunk : List Byte) :
    knownRlen buf.length (.raFeed chunk) (feedAnswer (buf ++ chunk)) = (keptBytes (buf ++ chunk)).length := by
  cases hc : classify (buf ++ chunk) <;> simp [knownRlen, feedAnswer, keptBytes, hc]

/-- One command: what the host computes from its response is the `RLEN` it leaves (60_exceptions.md R216). -/
theorem rlen_eq_knownRlen {i : Instr} {s t : State} {r : Response} (h : exec i s = .next t)
    (hr : t.responses = s.responses ++ [r]) : t.rlen = knownRlen s.rlen i r := by
  cases hbuf : writesBuffer i with
  | false => rw [knownRlen_of_not_writesBuffer hbuf, State.rlen, exec_rbuf hbuf h, State.rlen]
  | true =>
    obtain rfl | ⟨chunk, rfl⟩ := eq_of_writesBuffer hbuf
    · obtain rfl := returnOk_next h
      rfl
    · rw [exec_raFeed] at h
      obtain rfl := Host.Outcome.next.inj h
      obtain rfl : feedAnswer (s.rbuf ++ chunk) = r := by simpa using hr
      exact (knownRlen_feedAnswer s.rbuf chunk).symm

/-- The answers of a run are its first command's response followed by the answers of the others (60_exceptions.md R217). -/
theorem runCommands_cons_answers {i : Instr} {rest : List Instr} {s t : State} {answers : List Response}
    (hrun : runCommands (i :: rest) s = .next t) (hanswers : t.responses = s.responses ++ answers) :
    ∃ (u : State) (r : Response) (later : List Response), exec i s = .next u ∧ u.responses = s.responses ++ [r] ∧
      runCommands rest u = .next t ∧ t.responses = u.responses ++ later ∧ answers = r :: later := by
  obtain ⟨u, hexec, hrest⟩ := runCommands_cons_next hrun
  obtain ⟨e, -, rfl⟩ := exec_next hexec
  obtain ⟨later, hlater⟩ := runCommands_responses_prefix hrest
  exact ⟨_, _, later, hexec, rfl, hrest, hlater.symm, by simpa [hanswers] using hlater.symm⟩

/-- Settles O42, by induction on the commands: the host is right after the first one, and goes on from what it then
knows. -/
theorem hostKnowsTheBufferLength : Obligations.HostKnowsTheBufferLength := by
  intro program
  induction program with
  | nil =>
    intro s t answers hrun _
    obtain rfl := Host.Outcome.next.inj hrun
    rfl
  | cons i rest ih =>
    intro s t answers hrun hanswers
    obtain ⟨u, r, later, hexec, hr, hrest, hlater, rfl⟩ := runCommands_cons_answers hrun hanswers
    rw [ih u t later hrest hlater, rlen_eq_knownRlen hexec hr]
    rfl

end Sys2Proof.Machine
end

section
/-! Block reset (70_reset_and_hazards.md R230), and what the host's session does with the block: the initial read and the way
of a notified frame to its words (R232). -/

namespace Sys2Proof.Machine

/-! ### A notified frame -/

/-- The word split gives half as many words as the payload has bytes (41_frame.md R133). -/
theorem splitWords_length (payload : List Byte) : (splitWords payload).length = payload.length / 2 := by
  rw [splitWords_eq_map_range, List.length_map, List.length_range]

/-- The word split answers the words of a telemetry payload of even length (41_frame.md R133). -/
theorem exec_extractWords_of_telemetry {fc bc : Byte} {payload : List Byte} (hfc : fc = Config.fcTelemetry)
    (hlen : payload.length = bc.toNat) (heven : bc.toNat % 2 = 0) (addr : Byte) (s : State) :
    exec (.extractWords addr fc bc payload) s = .next (s.answered ⟨.ok, .words (splitWords payload)⟩) := by
  rw [exec_extractWords hlen, extractWords_ok.mpr ⟨hfc, heven, rfl⟩]
  rfl

/-- The serialization of a well-formed frame is as long as its byte count says (30_encoding.md R63). -/
theorem serialize_length_of_wellFormed {f : Frame} (h : f.wellFormed = true) :
    f.serialize.length = 3 + (byteAt f.serialize 2).toNat + 2 := by
  obtain ⟨hlen, -, -⟩ := (wellFormed_iff f).mp h
  rw [serialize_length, byteAt_serialize_two, hlen]
  omega

/-- Settles O43: the feeds bring the frame together, the parser undoes its serialization, and the words are those of its
payload; each host reaction is the next of these commands. -/
theorem notifiedFrameReachesItsWords : Obligations.NotifiedFrameReachesItsWords := by
  intro s f chunks last hs hwf hfc heven hsplit hlast
  obtain ⟨hlen, -, -⟩ := (wellFormed_iff f).mp hwf
  have hframe := serialize_length_of_wellFormed hwf
  obtain ⟨hfeeds, -⟩ := splitsOfAFrameComplete s chunks last f.serialize hs hsplit (by omega) hframe hlast
  have hparse := exec_parseResponse_of_ok (parseResponse_eq_ok.mpr ⟨hwf, rfl⟩)
  have hextract := exec_extractWords_of_telemetry hfc hlen heven f.deviceAddress
  have hwords : (splitWords f.payload).length = f.byteCount.toNat / 2 := by rw [splitWords_length, hlen]
  have hbytes : (splitWords f.payload).flatMap wireBytes = f.payload := flatMap_wireBytes_splitWords (hlen ▸ heven)
  exact ⟨_, _, _, _, _, _, _, _, splitWords f.payload, rfl, rfl, rfl, rfl, rfl, hwords, hfeeds, List.getLast?_concat, rfl,
    hparse _, rfl, rfl, hextract _, rfl, congrArg (0x00 :: ·) hbytes, rfl, hs, rfl⟩

/-! ### Block reset -/

/-- Settles O2: the event is fetched and performed. -/
theorem blockResetEventRestoresResetValues : Obligations.BlockResetEventRestoresResetValues := by
  intro s rest hpending
  have hfetch : s.fetch = some (.blockReset, { s with pending := rest }) := fetch_eq_some.mpr ⟨rest, hpending, rfl⟩
  simp only [step, hfetch, State.blockReset]

/-! ### The initial read -/

theorem exec_raReset (s : State) : exec .raReset s = .next (s.clearRbuf.respond ⟨.ok, .none⟩) := rfl

/-- The two commands of a request empty the buffer and answer the request's bytes (60_exceptions.md R214). -/
theorem runCommands_requestCommands {fc : Byte} (hfc : fc = 0x03 ∨ fc = 0x04) (start count : Word) (s : State) :
    runCommands (requestCommands fc start count) s = .next { s with
      rbuf := []
      responses := s.responses ++ [⟨.ok, .none⟩, ⟨.ok, .bytes (appendCrc (requestHead fc start count))⟩] } := by
  simp [requestCommands, runCommands, exec_raReset, exec_buildRequest_of_fc hfc, State.clearRbuf, State.respond]

/-- Settles O44: the request of the initial read is the six bytes whose CRC R110 gives. -/
theorem initialReadAsksForEightyFiveRegisters : Obligations.InitialReadAsksForEightyFiveRegisters := by
  intro s
  obtain ⟨-, -, hbytes, -⟩ := wholeFrameCrcDependsOnTheFrame
  rw [initialRead, runCommands_requestCommands (.inr rfl), ← hbytes]
  rfl

end Sys2Proof.Machine
end
